-- ==== Sys2Proof/Word.lean ====
section
/-! DEFINITION. The widths of the core: the bit-vector types every other file uses (spec 00_scope.md R6, R7).
In every one of them bit 0 is the least significant bit. -/

namespace Sys2Proof

/-- A byte of an operand or of a result (00_scope.md R11). -/
abbrev Byte := BitVec 8

/-- A 4-bit value: the input and output of an S-box. -/
abbrev Nibble := BitVec 4

/-- A 32-bit word of the key schedule and of the word forms. -/
abbrev Word := BitVec 32

/-- A 128-bit value: a block, a round key, the state between two rounds. -/
abbrev Block := BitVec 128

/-- A 256-bit key. -/
abbrev Key := BitVec 256

/-- The 256-bit data input `DIN`; lane `j` is bits `8j+7` to `8j` (30_encoding.md R60). -/
abbrev Lanes := BitVec 256

/-- Four 32-bit words, the least significant first. -/
abbrev FourWords := Word × Word × Word × Word

/-- The 33 round keys `Khat[0..32]`, in the order of their index. -/
abbrev RoundKeys := Vector Block 33

end Sys2Proof
end

