-- ==== Sys2Proof/Machine/Primitives.lean ====
section
/-! DEFINITION. The primitive functions of the cipher (spec 40_tables_and_primitives.md) and the views of a value as bits,
nibbles, bytes and words (00_scope.md R8). Every function is pure. -/

namespace Sys2Proof.Machine

/-- R8: `word(v, j)`, word 0 the least significant. -/
def word {n : Nat} (v : BitVec n) (j : Nat) : Word := v.extractLsb' (32 * j) 32

/-- R8: `nib(v, j)`, nibble 0 the least significant. -/
def nib {n : Nat} (v : BitVec n) (j : Nat) : Nibble := v.extractLsb' (4 * j) 4

/-- R8: `byte(v, j)`, byte 0 the least significant. -/
def byte {n : Nat} (v : BitVec n) (j : Nat) : Byte := v.extractLsb' (8 * j) 8

/-- R8: `words4(x0, x1, x2, x3)`, with `x0` the least significant word. -/
def words4 (x : FourWords) : Block :=
  x.2.2.2 ++ (x.2.2.1 ++ (x.2.1 ++ x.1 : BitVec 64) : BitVec 96)

/-- The four words of a block, the least significant first: the inverse of `words4`. -/
def wordsOf (v : Block) : FourWords := (word v 0, word v 1, word v 2, word v 3)

/-- R81: rotation of a 32-bit word to the left by `n`: bit `i` moves to bit `(i + n) mod 32`. -/
def rotl32 (x : Word) (n : Nat) : Word := (x <<< (n % 32)) ||| (x >>> ((32 - n % 32) % 32))

/-- R81: rotation to the right, `rotl32` by `(32 - n) mod 32`. -/
def rotr32 (x : Word) (n : Nat) : Word := rotl32 x ((32 - n % 32) % 32)

/-- R83, R84: S-box `b mod 8` on one 4-bit value. -/
def sbox (b : Nat) (x : Nibble) : Nibble :=
  (SBOX[b % 8]'(Nat.mod_lt b (by decide)))[x.toNat]'x.isLt

/-- R86: the inverse of S-box `b mod 8` on one 4-bit value. -/
def sboxInv (b : Nat) (y : Nibble) : Nibble :=
  (SBOXINV[b % 8]'(Nat.mod_lt b (by decide)))[y.toNat]'y.isLt

/-- The 128-bit value whose nibble `j` is `f j`. -/
def ofNibbles (f : Nat → Nibble) : Block :=
  BitVec.ofFnLE fun i : Fin 128 => (f (i / 4)).getLsbD (i % 4)

/-- R85: the S-box layer, 32 copies of one S-box on the 32 nibbles of the block. -/
def shat (b : Nat) (v : Block) : Block := ofNibbles fun j => sbox b (nib v j)

/-- R87: the inverse S-box layer. -/
def shatInv (b : Nat) (v : Block) : Block := ofNibbles fun j => sboxInv b (nib v j)

/-- The entry for output bit `i` of a table of 128 entries that stands in 8 rows of 16. -/
def entry {α : Type} (table : Vector (Vector α 16) 8) (i : Fin 128) : α :=
  (table[i.val / 16]'(by omega))[i.val % 16]'(by omega)

/-- The value whose bit `i` is the bit of `v` at the position the table gives for `i` (the convention of R88). -/
def permute (table : Vector (Vector Nat 16) 8) (v : Block) : Block :=
  BitVec.ofFnLE fun i => v.getLsbD (entry table i)

/-- R88: the initial permutation. -/
def ip (v : Block) : Block := permute IPT v

/-- R89: the final permutation. -/
def fp (v : Block) : Block := permute FPT v

/-- R91: the exclusive-or of the bits of `v` at the listed positions. -/
def parity (v : Block) (taps : List Nat) : Bool := taps.foldr (fun t acc => v.getLsbD t ^^ acc) false

/-- R91: the linear map whose output bit `i` is the parity over the tap list the table gives for `i`. -/
def tapMap (table : Vector (Vector (List Nat) 16) 8) (v : Block) : Block :=
  BitVec.ofFnLE fun i => parity v (entry table i)

/-- R91, R92: the linear transform. -/
def lt (v : Block) : Block := tapMap LTT v

/-- R93, R94: the inverse linear transform. -/
def ltInv (v : Block) : Block := tapMap LTTINV v

/-- R96: bit `j` of each of the four words, word 0 giving the least significant bit. -/
def column (x : FourWords) (j : Nat) : Nibble :=
  BitVec.ofFnLE ![x.1.getLsbD j, x.2.1.getLsbD j, x.2.2.1.getLsbD j, x.2.2.2.getLsbD j]

/-- The word whose bit `j` is bit `l` of `f j`. -/
def rowOf (f : Nat → Nibble) (l : Nat) : Word := BitVec.ofFnLE fun j : Fin 32 => (f j).getLsbD l

/-- The four words whose column `j` is `f j`. -/
def ofColumns (f : Nat → Nibble) : FourWords := (rowOf f 0, rowOf f 1, rowOf f 2, rowOf f 3)

/-- R96: `Scol`, one S-box on every bit column of four words. -/
def scol (b : Nat) (x : FourWords) : FourWords := ofColumns fun j => sbox b (column x j)

end Sys2Proof.Machine
end

