-- ==== Sys2Proof/Machine/KeySchedule.lean ====
section
/-! DEFINITION. The key schedule as a pure function (spec 41_key_schedule.md R111 to R117). -/

namespace Sys2Proof.Machine

/-- The eight prekey words that the next one is made of: `back k` is `w[i-k]` while word `i` is being computed (R113). -/
structure PrekeyWindow where
  back8 : Word
  back7 : Word
  back6 : Word
  back5 : Word
  back4 : Word
  back3 : Word
  back2 : Word
  back1 : Word
  deriving DecidableEq, Repr

/-- R112: the initial prekey words `w[-8..-1]`, `w[-8]` the least significant 32 bits of the key. -/
def initialWindow (key : Key) : PrekeyWindow :=
  ⟨word key 0, word key 1, word key 2, word key 3, word key 4, word key 5, word key 6, word key 7⟩

/-- R113: the prekey word `w[i]` from the eight before it. -/
def nextPrekey (i : Nat) (q : PrekeyWindow) : Word :=
  rotl32 (q.back8 ^^^ q.back5 ^^^ q.back3 ^^^ q.back1 ^^^ PHI ^^^ BitVec.ofNat 32 i) 11

/-- The window moved on by one word, `w` the newest. -/
def PrekeyWindow.push (q : PrekeyWindow) (w : Word) : PrekeyWindow :=
  ⟨q.back7, q.back6, q.back5, q.back4, q.back3, q.back2, q.back1, w⟩

/-- The words `w[i-8..i-1]`, in the order they are computed (R113). -/
def window (key : Key) : Nat → PrekeyWindow
  | 0 => initialWindow key
  | i + 1 => (window key i).push (nextPrekey i (window key i))

/-- The computed prekey word `w[i]`, `i` from 0 (R113). -/
def prekey (key : Key) (i : Nat) : Word := nextPrekey i (window key i)

/-- The whole sequence `w[-8..131]` counted from 0: `paddedPrekey key n` is `w[n-8]` (R112, R113). -/
def paddedPrekey (key : Key) (n : Nat) : Word := if n < 8 then word key n else prekey key (n - 8)

/-- R114: the S-box that makes round key `r`, `r` in 0..32. -/
def keyBox (r : Nat) : Nat := (32 + 3 - r) % 8

/-- R115: the four prekey words of round key `r` after the S-box. -/
def substitutedWords (key : Key) (r : Nat) : FourWords :=
  scol (keyBox r) (prekey key (4 * r), prekey key (4 * r + 1), prekey key (4 * r + 2), prekey key (4 * r + 3))

/-- R116: the pre-round value `K[r]`. -/
def preRound (key : Key) (r : Nat) : Block := words4 (substitutedWords key r)

/-- R117: the round key `Khat[r]`. -/
def roundKey (key : Key) (r : Nat) : Block := ip (preRound key r)

/-- R111: the 33 round keys of a key. -/
def keySchedule (key : Key) : RoundKeys := Vector.ofFn fun r : Fin 33 => roundKey key r

end Sys2Proof.Machine
end

