-- ==== Sys2Proof/Machine/Cipher.lean ====
section
/-! DEFINITION. Encryption and decryption of one block as pure functions of 33 round keys
(spec 42_encrypt.md R131 to R134, 43_decrypt.md R151 to R154). -/

namespace Sys2Proof.Machine

/-- `Khat[r]`. The algorithms below use only `r` in 0..32, so the value past the end is never read. -/
def RoundKeys.at (ks : RoundKeys) (r : Nat) : Block := ks[r]?.getD 0

/-- R132: one of the rounds 0 to 30: add the round key, S-box layer, linear transform. -/
def encRound (ks : RoundKeys) (r : Nat) (b : Block) : Block := lt (shat r (b ^^^ RoundKeys.at ks r))

/-- `Bhat[r]`, the state entering round `r`, for `r` in 0..31 (R132, R134). -/
def bhat (ks : RoundKeys) (p : Block) : Nat → Block
  | 0 => ip p
  | r + 1 => encRound ks r (bhat ks p r)

/-- R133: round 31, with two key additions and no linear transform. -/
def lastRound (ks : RoundKeys) (b : Block) : Block :=
  shat 31 (b ^^^ RoundKeys.at ks 31) ^^^ RoundKeys.at ks 32

/-- R131: `Encrypt(Khat, P)`. -/
def encryptBlock (ks : RoundKeys) (p : Block) : Block := fp (lastRound ks (bhat ks p 31))

/-- R152: undo one of the rounds 0 to 30. -/
def decRound (ks : RoundKeys) (r : Nat) (b : Block) : Block := shatInv r (ltInv b) ^^^ RoundKeys.at ks r

/-- Undo the rounds `n - 1` down to 0, in that order (R151, R152). -/
def undoRounds (ks : RoundKeys) : Nat → Block → Block
  | 0, b => b
  | r + 1, b => undoRounds ks r (decRound ks r b)

/-- R153: undo round 31. -/
def undoLastRound (ks : RoundKeys) (b : Block) : Block :=
  shatInv 31 (b ^^^ RoundKeys.at ks 32) ^^^ RoundKeys.at ks 31

/-- R151: `Decrypt(Khat, C)`. -/
def decryptBlock (ks : RoundKeys) (c : Block) : Block := fp (undoRounds ks 31 (undoLastRound ks (ip c)))

end Sys2Proof.Machine
end

