-- ==== Sys2Proof/Config.lean ====
section
/-! DEFINITION. The parameters of the core that are plain numbers (spec 00_scope.md R6). Widths stand in Word.lean as types, the
constant tables in Machine/Tables.lean.

The core has no free value: no rule leaves the result of a command open (`RDATA` and `DOUT` without data are absent, not
unknown: 10_state.md R30, 30_encoding.md R66). The three OPEN parameters of the spec, `Latency` (D17), `Integration` (D15)
and `TailPolicy` (D19), are read by no rule of the core and have no counterpart here (log entry 11). -/

namespace Sys2Proof.Config

/-- The one legal `len` of `LDKEY`: 32 bytes (20_memory.md R43). -/
def keyLen : BitVec 6 := 32

/-- The one legal `len` of `ENC` and `DEC`: 16 bytes (20_memory.md R43). -/
def blockLen : BitVec 6 := 16

/-- The number of bits of a command: the 8-bit word `CMD` and the 256 bits of `DIN` (30_encoding.md R60). -/
def commandBits : Nat := 264

end Sys2Proof.Config
end

