-- ==== Sys2Proof/Syntax.lean ====
section
/-! DEFINITION. What the host can present to the core: operands, commands, events, the instructions the command words stand for,
and the lines of the textual notation (spec 30_encoding.md R60, R62, R67, R69, R70; 70_reset_and_hazards.md R213, R216). -/

namespace Sys2Proof

/-- An operand as the command port carries it: `len` bytes, byte `j` on lane `j` of `DIN` (R60). Lanes at or beyond `len`
are there but mean nothing (20_memory.md R44). -/
structure Operand where
  len   : BitVec 6
  lanes : Lanes
  deriving DecidableEq, Repr

/-- A command: the 8-bit word `CMD` and the data input `DIN`, presented together (R60). -/
structure Command where
  cmd : BitVec 8
  din : Lanes
  deriving DecidableEq, Repr

/-- What can arrive at the core, one after the other (70_reset_and_hazards.md R216).

`resetOver c` is a `RESET` that meets the command `c`: it coincides with the acceptance of `c`, or arrives after it and
before its response (60_exceptions.md R180, 70_reset_and_hazards.md R201; DEDUCED, log entry 6). -/
inductive Event where
  | reset
  | command (c : Command)
  | resetOver (c : Command)
  deriving DecidableEq, Repr

/-- The instructions: one constructor for each row of spec/opcode_table.json. The seven with an encoding carry the whole of
`DIN`, so that a command word and its data determine the instruction and are determined by it. -/
inductive Instr where
  /-- `LDKEY`, `0x60` (41_key_schedule.md R110). -/
  | ldkey (din : Lanes)
  /-- `ENC`, `0x90` (42_encrypt.md R130). -/
  | enc (din : Lanes)
  /-- `DEC`, `0xD0` (43_decrypt.md R150). -/
  | dec (din : Lanes)
  /-- `LDKEY.badlen`, `01llllll` with `len` not 32 (60_exceptions.md R171). -/
  | ldkeyBadlen (operand : Operand)
  /-- `ENC.badlen`, `10llllll` with `len` not 16 (60_exceptions.md R171). -/
  | encBadlen (operand : Operand)
  /-- `DEC.badlen`, `11llllll` with `len` not 16 (60_exceptions.md R171). -/
  | decBadlen (operand : Operand)
  /-- `(reserved)`, `00llllll` (60_exceptions.md R173). -/
  | reserved (operand : Operand)
  /-- `ENCRYPT block, key`, a pseudo-operation: `LDKEY key` then `ENC block` (R70). -/
  | encrypt (block key : Operand)
  /-- `DECRYPT block, key`, a pseudo-operation: `LDKEY key` then `DEC block` (R70). -/
  | decrypt (block key : Operand)
  deriving DecidableEq, Repr

/-- One line of the textual notation (R69, R70), its hexadecimal operand given as the bytes it spells, `b[0]` first. -/
inductive Line where
  | ldkey (bytes : List Byte)
  | enc (bytes : List Byte)
  | dec (bytes : List Byte)
  | reset
  /-- `.cmd 0x..`: a command word written out. R69 gives `.cmd 0x00` alone; that any word may stand there is the model's choice
  (DESIGN CHOICE, log entry 16). -/
  | rawCmd (word : BitVec 8)
  | encrypt (block key : List Byte)
  | decrypt (block key : List Byte)
  deriving DecidableEq, Repr

end Sys2Proof
end

