-- ==== Sys2Proof/WellFormed.lean ====
section
/-! DEFINITION. Which terms of `Instr` are instructions: a wrong-length form carries a wrong length (spec 30_encoding.md R67).
Every other term is one: no key, block, length or lane is illegal as data (60_exceptions.md R170). -/

namespace Sys2Proof

/-- The check of an instruction's fields. -/
def Instr.wellFormed : Instr → Bool
  | .ldkey _ => true
  | .enc _ => true
  | .dec _ => true
  | .ldkeyBadlen o => o.len != Config.keyLen
  | .encBadlen o => o.len != Config.blockLen
  | .decBadlen o => o.len != Config.blockLen
  | .reserved _ => true
  | .encrypt _ _ => true
  | .decrypt _ _ => true

/-- The pseudo-operations, which have no command word of their own (R70). -/
def Instr.isPseudo : Instr → Bool
  | .ldkey _ => false
  | .enc _ => false
  | .dec _ => false
  | .ldkeyBadlen _ => false
  | .encBadlen _ => false
  | .decBadlen _ => false
  | .reserved _ => false
  | .encrypt _ _ => true
  | .decrypt _ _ => true

end Sys2Proof
end

