-- ==== Sys2Proof/Decode.lean ====
section
/-! DEFINITION. The decoder, the encoder and the assembler (spec 30_encoding.md R60, R62, R67, R69, R70). Decoding is total: every
one of the 256 command words has an instruction (R67), and its meaning never depends on state (R68). -/

namespace Sys2Proof

/-- R60: the operation code, bits 7:6 of `CMD`. -/
def opOf (w : BitVec 8) : BitVec 2 := w.extractLsb' 6 2

/-- R60: the length field, bits 5:0 of `CMD`. -/
def lenOf (w : BitVec 8) : BitVec 6 := w.extractLsb' 0 6

/-- R60: the command word of an operation code and a length, `op * 64 + len`. -/
def commandWord (op : BitVec 2) (len : BitVec 6) : BitVec 8 := op ++ len

/-- R60, R62, R67: the instruction a command stands for. -/
def decode (c : Command) : Instr :=
  let operand : Operand := ⟨lenOf c.cmd, c.din⟩
  if opOf c.cmd = 0b00 then .reserved operand
  else if opOf c.cmd = 0b01 then
    if operand.len = Config.keyLen then .ldkey c.din else .ldkeyBadlen operand
  else if opOf c.cmd = 0b10 then
    if operand.len = Config.blockLen then .enc c.din else .encBadlen operand
  else
    if operand.len = Config.blockLen then .dec c.din else .decBadlen operand

/-- The row of spec/opcode_table.json an instruction belongs to, by its mnemonic there. -/
def mnemonicOf : Instr → String
  | .ldkey _ => "LDKEY"
  | .enc _ => "ENC"
  | .dec _ => "DEC"
  | .ldkeyBadlen _ => "LDKEY.badlen"
  | .encBadlen _ => "ENC.badlen"
  | .decBadlen _ => "DEC.badlen"
  | .reserved _ => "(reserved)"
  | .encrypt _ _ => "ENCRYPT"
  | .decrypt _ _ => "DECRYPT"

/-- The command with operation code `op` and the given operand (R60). -/
def commandOf (op : BitVec 2) (operand : Operand) : Command := ⟨commandWord op operand.len, operand.lanes⟩

/-- The commands of an instruction (R62, R67): one for an instruction of the command port, two for a pseudo-operation (R70). -/
def encode : Instr → List Command
  | .ldkey din => [commandOf 0b01 ⟨Config.keyLen, din⟩]
  | .enc din => [commandOf 0b10 ⟨Config.blockLen, din⟩]
  | .dec din => [commandOf 0b11 ⟨Config.blockLen, din⟩]
  | .ldkeyBadlen operand => [commandOf 0b01 operand]
  | .encBadlen operand => [commandOf 0b10 operand]
  | .decBadlen operand => [commandOf 0b11 operand]
  | .reserved operand => [commandOf 0b00 operand]
  | .encrypt block key => [commandOf 0b01 key, commandOf 0b10 block]
  | .decrypt block key => [commandOf 0b01 key, commandOf 0b11 block]

/-- A command from its 264 bits: `CMD` is bits 7:0, `DIN` the 256 bits above it (R60). -/
def commandOfBits (w : Nat) : Command := ⟨BitVec.ofNat 8 w, BitVec.ofNat 256 (w / 256)⟩

/-- The command whose lowest `nbits` bits are those of `w` and whose other bits are 0. -/
def tableCommand (nbits w : Nat) : Command := commandOfBits (w % 2 ^ nbits)

/-- The instruction the decoder reads from an instruction whose bits are `w`; a command has 264 bits, and a row of no bits has
no command word (log entry 12). -/
def decodeTableWord (nbits w : Nat) : Option Instr :=
  if nbits = 0 ∨ Config.commandBits < nbits then none else some (decode (tableCommand nbits w))

/-- The number whose base-256 digits are the bytes, `b[0]` the lowest (00_scope.md R11). -/
def bytesToNat : List Byte → Nat
  | [] => 0
  | b :: bs => b.toNat + 256 * bytesToNat bs

/-- `bytes_to_bits` into `n` bits (00_scope.md R11): byte `j` on bits `8j+7` to `8j`. -/
def bytesToBits (n : Nat) (bs : List Byte) : BitVec n := BitVec.ofNat n (bytesToNat bs)

/-- R69: a byte string as an operand. The lanes hold at most its first 32 bytes, the others are zero; a string of more than
63 bytes cannot be encoded and is refused. -/
def operandOfBytes (bs : List Byte) : Option Operand :=
  if bs.length ≤ 63 then some ⟨BitVec.ofNat 6 bs.length, bytesToBits 256 (bs.take 32)⟩ else none

/-- R69: the command of an operation code and a byte string. -/
def assemble (op : BitVec 2) (bs : List Byte) : Option Command := (operandOfBytes bs).map (commandOf op)

/-- R69, R70: the events one line of the textual notation stands for; none where an operand cannot be encoded. -/
def eventsOfLine : Line → Option (List Event)
  | .ldkey bs => (assemble 0b01 bs).map fun c => [.command c]
  | .enc bs => (assemble 0b10 bs).map fun c => [.command c]
  | .dec bs => (assemble 0b11 bs).map fun c => [.command c]
  | .reset => some [.reset]
  | .rawCmd w => some [.command ⟨w, 0⟩]
  | .encrypt block key => (assemble 0b01 key).bind fun k => (assemble 0b10 block).map fun b => [.command k, .command b]
  | .decrypt block key => (assemble 0b01 key).bind fun k => (assemble 0b11 block).map fun b => [.command k, .command b]

end Sys2Proof
end

