-- ==== Sys2Proof/Machine/State.lean ====
section
/-! DEFINITION. The state of the core, its reset value, and the reasons a step can stop (spec 10_state.md R20 to R31, 30_encoding.md
R66, 70_reset_and_hazards.md R200, R216). -/

namespace Sys2Proof.Machine

/-- The four values of the 2-bit `FAULT` register and of `RSTAT` (10_state.md R24, 30_encoding.md R66); their bits are
`codeBits` of Flags.lean. -/
inductive FaultCode where
  /-- 0: no fault since reset; in a response, `OK`. -/
  | noFault
  /-- 1 (60_exceptions.md R171). -/
  | invalidLength
  /-- 2 (60_exceptions.md R172). -/
  | keyNotLoaded
  /-- 3 (60_exceptions.md R173). -/
  | illegalOp
  deriving DecidableEq, Repr

/-- A response: `RSTAT`, and `RDATA` present or absent (30_encoding.md R66). -/
structure Response where
  rstat : FaultCode
  rdata : Option Block
  deriving DecidableEq, Repr

/-- The state of the core, and the two ports as plain data. `RK` and `DOUT` are of an option type because the spec gives them
the state "no value" (10_state.md R30; log entry 1). -/
structure State where
  /-- `RK[0..32]` (R20): all 33 together hold a value, or none does (R30). -/
  rk        : Option RoundKeys
  /-- `KEY_VALID` (R21). -/
  keyValid  : Bool
  /-- `DOUT` (R22). -/
  dout      : Option Block
  /-- `OUT_VALID` (R23). -/
  outValid  : Bool
  /-- `FAULT` (R24). -/
  fault     : FaultCode
  /-- The model's own: the events the host will still present, the next one first (30_encoding.md R61, 70_reset_and_hazards.md
  R216; log entry 2). -/
  port      : List Event
  /-- The model's own: the responses given so far, the oldest first (70_reset_and_hazards.md R216; log entry 3). -/
  responses : List Response
  deriving DecidableEq, Repr

/-- Why a step of the model can end without a next state. The three fault causes of 60_exceptions.md R170 are none of these:
they are recorded in `FAULT` and the step has a next state. -/
inductive Fault where
  /-- `ENC` and `DEC` raise it where `KEY_VALID` is 1 and `RK` holds no value: "reading it is a fault, never
  a number" (00_scope.md R12, 10_state.md R30). No run reaches such a state (Safety.lean, `Inv`). Safe. -/
  | noValue
  deriving DecidableEq, Repr

/-- Why a step can be refused. -/
inductive Refusal where
  /-- An arm of `exec` raises it for an instruction without a meaning. No arm does. Safe. -/
  | notModelled (mnemonic : String)
  deriving DecidableEq, Repr

/-- What one step answers. -/
abbrev Result : Type := Host.Outcome State Fault Refusal

/-- The core right after reset (10_state.md R31, 70_reset_and_hazards.md R200), with no event waiting and no response given
(DESIGN CHOICE, log entries 2 and 3). -/
def State.reset : State where
  rk := none
  keyValid := false
  dout := none
  outValid := false
  fault := .noFault
  port := []
  responses := []

end Sys2Proof.Machine
end

