-- ==== Sys2Proof/Machine/Flags.lean ====
section
/-! DEFINITION. The status bits and what the host sees of them (spec 10_state.md R22, R24, R29, R30). -/

namespace Sys2Proof.Machine

/-- R24: the two bits of a fault code. -/
def codeBits : FaultCode → BitVec 2
  | .noFault => 0
  | .invalidLength => 1
  | .keyNotLoaded => 2
  | .illegalOp => 3

/-- R29: `STATUS`, a view of `KEY_VALID` (bit 0), `OUT_VALID` (bit 1) and `FAULT` (bits 3:2). -/
def status (s : State) : BitVec 4 := codeBits s.fault ++ (BitVec.ofBool s.outValid ++ BitVec.ofBool s.keyValid : BitVec 2)

/-- R213, R30: the result the host may take from the `DOUT` wires, present only while `OUT_VALID = 1`. -/
def doutOutput (s : State) : Option Block := if s.outValid then s.dout else none

end Sys2Proof.Machine
end

