-- ==== Sys2Proof/Machine/Operands.lean ====
section
/-! DEFINITION. The operand forms: how a key, a block and a result stand on the lanes (spec 20_memory.md R40, R41, R44; 30_encoding.md
R63, R64; 00_scope.md R11). -/

namespace Sys2Proof.Machine

/-- R63: the key operand, `DIN[255:0]`. -/
def keyOperand (din : Lanes) : Key := din

/-- R64: the block operand, `DIN[127:0]`; `DIN[255:128]` is ignored (R44). -/
def blockOperand (din : Lanes) : Block := din.extractLsb' 0 128

/-- R41: the byte string of a 128-bit value, `c[j] = byte(v, j)`. -/
def bitsToBytes (v : Block) : List Byte := (List.range 16).map (byte v)

end Sys2Proof.Machine
end

