-- ==== Sys2Proof/Machine/Ops.lean ====
section
/-! DEFINITION. The operations on the state that the instructions share: responding, taking a fault, the faulted state, reset, the
register writes, and the two command shapes (spec 30_encoding.md R65, R66; 60_exceptions.md R171 to R177; 70_reset_and_hazards.md
R200). -/

namespace Sys2Proof.Machine

/-- R66: give the one response of the current command. -/
def respond (code : FaultCode) (data : Option Block) (s : State) : State :=
  { s with responses := s.responses ++ [⟨code, data⟩] }

/-- R175: fault entry. The code is recorded and answered, and nothing else changes. -/
def takeFault (code : FaultCode) (s : State) : Result := .next (respond code none { s with fault := code })

/-- R176: in the faulted state a command is answered with the stored code and changes nothing; otherwise it goes on as `run`
says. -/
def unlessFaulted (run : State → Result) (s : State) : Result :=
  if s.fault = .noFault then run s else .next (respond s.fault none s)

/-- R200: the effect of `RESET` on the registers. It is also the only way out of the faulted state (R177). The two ports are the
host's and stay as they are. -/
def resetCore (s : State) : State :=
  { s with rk := none, keyValid := false, dout := none, outValid := false, fault := .noFault }

/-- R110: the register writes of `LDKEY`. -/
def loadRoundKeys (ks : RoundKeys) (s : State) : State := { s with rk := some ks, keyValid := true }

/-- R130, R150: the register writes of `ENC` and `DEC`. -/
def storeResult (d : Block) (s : State) : State := { s with dout := some d, outValid := true }

/-- R20, R30: read the round keys. Where they hold no value the read is a fault (log entry 5). -/
def withRoundKeys (s : State) (run : RoundKeys → Result) : Result :=
  match s.rk with
  | some ks => run ks
  | none => .fault .noValue

/-- R65, R110: a command with `op = 01`, checks in the order of R174. -/
def ldkeyCommand (operand : Operand) : State → Result :=
  unlessFaulted fun s =>
    if operand.len ≠ Config.keyLen then takeFault .invalidLength s
    else .next (respond .noFault none (loadRoundKeys (keySchedule (keyOperand operand.lanes)) s))

/-- R65, R130, R150: a command with `op = 10` or `11`, `cipher` the function of its direction, checks in the order of R174. -/
def cipherCommand (cipher : RoundKeys → Block → Block) (operand : Operand) : State → Result :=
  unlessFaulted fun s =>
    if operand.len ≠ Config.blockLen then takeFault .invalidLength s
    else if s.keyValid = false then takeFault .keyNotLoaded s
    else withRoundKeys s fun ks =>
      let d := cipher ks (blockOperand operand.lanes)
      .next (respond .noFault (some d) (storeResult d s))

/-- R65, R173: a command with `op = 00`. -/
def reservedCommand : State → Result := unlessFaulted (takeFault .illegalOp)

/-- The next command after one that has been answered (20_memory.md R46, R47). -/
def andThen (first : Result) (next : State → Result) : Result :=
  match first with
  | .next s => next s
  | .fault f => .fault f
  | .refused r => .refused r

/-- R61, R216: the next event the host presents, and the state once it has been taken from the port. -/
def nextEvent (s : State) : Option (Event × State) :=
  match s.port with
  | [] => none
  | e :: rest => some (e, { s with port := rest })

/-- R213: the host presents one more event before those still waiting. -/
def present (e : Event) (s : State) : State := { s with port := e :: s.port }

end Sys2Proof.Machine
end

