-- ==== Sys2Proof/Machine/Dec.lean ====
section
/-! DEFINITION. The meanings of the commands with `op = 11` (spec 43_decrypt.md R150, 60_exceptions.md R171, R172). -/

namespace Sys2Proof.Machine

/-- R150: `DEC`, the one legal length. -/
def execDec (din : Lanes) (s : State) : Result := cipherCommand decryptBlock ⟨Config.blockLen, din⟩ s

/-- R171: `DEC.badlen` (log entry 10). -/
def execDecBadlen (operand : Operand) (s : State) : Result := cipherCommand decryptBlock operand s

end Sys2Proof.Machine
end

