-- ==== Sys2Proof/Machine/Enc.lean ====
section
/-! DEFINITION. The meanings of the commands with `op = 10` (spec 42_encrypt.md R130, 60_exceptions.md R171, R172). -/

namespace Sys2Proof.Machine

/-- R130: `ENC`, the one legal length. -/
def execEnc (din : Lanes) (s : State) : Result := cipherCommand encryptBlock ⟨Config.blockLen, din⟩ s

/-- R171: `ENC.badlen` (log entry 10). -/
def execEncBadlen (operand : Operand) (s : State) : Result := cipherCommand encryptBlock operand s

end Sys2Proof.Machine
end

