-- ==== Sys2Proof/Machine/Ldkey.lean ====
section
/-! DEFINITION. The meanings of the commands with `op = 01` (spec 41_key_schedule.md R110, 60_exceptions.md R171). -/

namespace Sys2Proof.Machine

/-- R110: `LDKEY`, the one legal length. -/
def execLdkey (din : Lanes) (s : State) : Result := ldkeyCommand ⟨Config.keyLen, din⟩ s

/-- R171: `LDKEY.badlen`. The length decides, so the meaning is that of the command word also for the one term that is not
well formed (log entry 10). -/
def execLdkeyBadlen (operand : Operand) (s : State) : Result := ldkeyCommand operand s

end Sys2Proof.Machine
end

