-- ==== Sys2Proof/Machine/Pseudo.lean ====
section
/-! DEFINITION. The meanings of the pseudo-operations (spec 30_encoding.md R70): two commands one after the other, each with its own
response. The response of the second is the result of the pseudo-operation: where the first faults, the second is
rejected with the same code (60_exceptions.md R176; log entry 9). -/

namespace Sys2Proof.Machine

/-- R70: `ENCRYPT block, key`, that is `LDKEY key` then `ENC block`. -/
def execEncrypt (block key : Operand) (s : State) : Result :=
  andThen (ldkeyCommand key s) (cipherCommand encryptBlock block)

/-- R70: `DECRYPT block, key`, that is `LDKEY key` then `DEC block`. -/
def execDecrypt (block key : Operand) (s : State) : Result :=
  andThen (ldkeyCommand key s) (cipherCommand decryptBlock block)

end Sys2Proof.Machine
end

