-- ==== Sys2Proof/Machine/Reserved.lean ====
section
/-! DEFINITION. The meaning of the command words with `op = 00` (spec 60_exceptions.md R173, 30_encoding.md R67). -/

namespace Sys2Proof.Machine

/-- R173: `IllegalOp`, whatever the length and the lanes are. -/
def execReserved (_operand : Operand) (s : State) : Result := reservedCommand s

end Sys2Proof.Machine
end

