-- ==== Sys2Proof/Machine/Dispatch.lean ====
section
/-! DEFINITION. One arm for each instruction (spec 30_encoding.md R62, R67, R70). -/

namespace Sys2Proof.Machine

def exec (i : Instr) (s : State) : Host.Outcome State Fault Refusal :=
  match i with
  | .ldkey din => Sys2Proof.Machine.execLdkey din s
  | .enc din => Sys2Proof.Machine.execEnc din s
  | .dec din => Sys2Proof.Machine.execDec din s
  | .ldkeyBadlen operand => Sys2Proof.Machine.execLdkeyBadlen operand s
  | .encBadlen operand => Sys2Proof.Machine.execEncBadlen operand s
  | .decBadlen operand => Sys2Proof.Machine.execDecBadlen operand s
  | .reserved operand => Sys2Proof.Machine.execReserved operand s
  | .encrypt block key => Sys2Proof.Machine.execEncrypt block key s
  | .decrypt block key => Sys2Proof.Machine.execDecrypt block key s

end Sys2Proof.Machine
end

