-- ==== Sys2Proof/Machine/Step.lean ====
section
/-! DEFINITION. One step of the machine: the next event the host presents (spec 30_encoding.md R65, 70_reset_and_hazards.md R200,
R201, R216). -/

namespace Sys2Proof.Machine

/-- The core takes the next event and finishes it: a command is decoded and executed (R65), a reset resets (R200), and a reset
that meets a command abandons it without a response (R180, R201). With no event waiting the core is idle and keeps all
state (60_exceptions.md R191; log entry 4). -/
def step (s : State) : Host.Outcome State Fault Refusal :=
  match nextEvent s with
  | none => .next s
  | some (.reset, t) => .next (resetCore t)
  | some (.command c, t) => exec (decode c) t
  | some (.resetOver _, t) => .next (resetCore t)

/-- The state `s` with the command of these bits presented next (log entry 12). -/
def State.withFetchWord (s : State) (nbits w : Nat) : State := present (.command (tableCommand nbits w)) s

end Sys2Proof.Machine
end

