-- ==== Sys2Proof/Machine/Contract.lean ====
section
/-! DEFINITION. The two functions of the source's contract, on byte strings (spec 00_scope.md R3, 20_memory.md R41). The core is not made of
them; statements say that the pseudo-operations answer what they give (30_encoding.md R70). -/

namespace Sys2Proof.Machine

/-- What a function of the contract gives: a byte string, or the one failure `InvalidLength`. -/
inductive ContractResult where
  | bytes (bs : List Byte)
  | invalidLength
  deriving DecidableEq, Repr

/-- R3, R41: one of the two functions, `cipher` that of its direction. -/
def contractOf (cipher : RoundKeys → Block → Block) (block key : List Byte) : ContractResult :=
  if key.length = 32 ∧ block.length = 16 then
    .bytes (bitsToBytes (cipher (keySchedule (bytesToBits 256 key)) (bytesToBits 128 block)))
  else .invalidLength

/-- R3: `encrypt(block, key)`. -/
def fefEncrypt (block key : List Byte) : ContractResult := contractOf encryptBlock block key

/-- R3: `decrypt(block, key)`. -/
def fefDecrypt (block key : List Byte) : ContractResult := contractOf decryptBlock block key

/-- The response that carries what the contract gives (R66, R41). -/
def carries (r : Response) : ContractResult → Prop
  | .bytes bs => r.rstat = .noFault ∧ r.rdata.map bitsToBytes = some bs
  | .invalidLength => r = ⟨.invalidLength, none⟩

end Sys2Proof.Machine
end

