-- ==== Sys2Proof/Machine/Envelope.lean ====
section
/-! DEFINITION. How the host of the source makes the key of each block (spec 70_reset_and_hazards.md R211). It is outside the core
(00_scope.md R5) and no step uses it: it is there so that a test bench can act as that host. A password is given as its
bytes, because how a character becomes a byte is the host's (93_implementation_defined.md U17). -/

namespace Sys2Proof.Machine

/-- R211: the 32 key bytes read from a password at an offset, wrapping; an empty password is refused (U6). -/
def envelopeKey (password : List Byte) (offset : Nat) : Option (List Byte) :=
  if password = [] then none
  else some ((List.range 32).map fun j => password.getD ((offset + j) % password.length) 0)

/-- R211: the offset of the next block, for a password of `len` characters. -/
def nextOffset (len offset : Nat) : Nat := (offset + 32 % len) % len

/-- R211: the offset of block `n`, counted from 0. -/
def blockOffset (len : Nat) : Nat → Nat
  | 0 => 0
  | n + 1 => nextOffset len (blockOffset len n)

end Sys2Proof.Machine
end

