-- ==== Sys2Proof/Machine/WordForm.lean ====
section
/-! DEFINITION. The word (bitslice) forms (spec 40_tables_and_primitives.md R95, 42_encrypt.md R136, 43_decrypt.md R156). The spec
gives them as cross-checks (D18): no instruction calls them, and statements say that they equal the standard form. -/

namespace Sys2Proof.Machine

/-- R95: `LTW`, the linear transform on four words. -/
def ltw : FourWords → FourWords
  | (x0, x1, x2, x3) =>
    let x0 := rotl32 x0 13
    let x2 := rotl32 x2 3
    let x1 := x1 ^^^ x0 ^^^ x2
    let x3 := x3 ^^^ x2 ^^^ (x0 <<< 3)
    let x1 := rotl32 x1 1
    let x3 := rotl32 x3 7
    let x0 := x0 ^^^ x1 ^^^ x3
    let x2 := x2 ^^^ x3 ^^^ (x1 <<< 7)
    let x0 := rotl32 x0 5
    let x2 := rotl32 x2 22
    (x0, x1, x2, x3)

/-- R95: `LTWinv`. -/
def ltwInv : FourWords → FourWords
  | (x0, x1, x2, x3) =>
    let x2 := rotr32 x2 22
    let x0 := rotr32 x0 5
    let x2 := x2 ^^^ x3 ^^^ (x1 <<< 7)
    let x0 := x0 ^^^ x1 ^^^ x3
    let x3 := rotr32 x3 7
    let x1 := rotr32 x1 1
    let x3 := x3 ^^^ x2 ^^^ (x0 <<< 3)
    let x1 := x1 ^^^ x0 ^^^ x2
    let x2 := rotr32 x2 3
    let x0 := rotr32 x0 13
    (x0, x1, x2, x3)

/-- R156: `Scolinv`, the inverse S-box on every bit column. -/
def scolInv (b : Nat) (x : FourWords) : FourWords := ofColumns fun j => sboxInv b (column x j)

/-- Exclusive-or word by word (R136). -/
def xorWords (x y : FourWords) : FourWords :=
  (x.1 ^^^ y.1, x.2.1 ^^^ y.2.1, x.2.2.1 ^^^ y.2.2.1, x.2.2.2 ^^^ y.2.2.2)

/-- R136: the four words entering round `r`. `SK[r]` is `substitutedWords key r`. -/
def wordState (key : Key) (p : Block) : Nat → FourWords
  | 0 => wordsOf p
  | r + 1 => ltw (scol r (xorWords (wordState key p r) (substitutedWords key r)))

/-- R136: encryption in word form. -/
def wordEncrypt (key : Key) (p : Block) : Block :=
  words4 (xorWords (scol 31 (xorWords (wordState key p 31) (substitutedWords key 31))) (substitutedWords key 32))

/-- R156: undo the rounds `n - 1` down to 0 in word form. -/
def undoWordRounds (key : Key) : Nat → FourWords → FourWords
  | 0, x => x
  | r + 1, x => undoWordRounds key r (xorWords (scolInv r (ltwInv x)) (substitutedWords key r))

/-- R156: decryption in word form. -/
def wordDecrypt (key : Key) (c : Block) : Block :=
  words4 (undoWordRounds key 31
    (xorWords (scolInv 31 (xorWords (wordsOf c) (substitutedWords key 32))) (substitutedWords key 31)))

end Sys2Proof.Machine
end

