-- ==== Sys2Proof/Safety.lean ====
section
/-! DEFINITION. The terms claims about whole runs use: the invariant of the state, a good run, and what the host observes (spec
10_state.md R20 to R23, 60_exceptions.md R178, 70_reset_and_hazards.md R216). -/

namespace Sys2Proof.Machine

/-- What every run keeps. -/
structure Inv (s : State) : Prop where
  /-- R21: `KEY_VALID` is 1 exactly when `RK` holds a value. -/
  keyValid_iff_rk : s.keyValid = s.rk.isSome
  /-- R21: what `RK` holds is the schedule of a key. -/
  rk_scheduled : ∀ ks, s.rk = some ks → ∃ key, ks = keySchedule key
  /-- R23: `OUT_VALID` is 1 exactly when `DOUT` holds a value. -/
  outValid_iff_dout : s.outValid = s.dout.isSome
  /-- R66: a response carries data only when it says `OK`. -/
  data_only_if_ok : ∀ r ∈ s.responses, r.rdata.isSome → r.rstat = .noFault

/-- R178, R216: the result of a run is good exactly when no fault is recorded at its end. -/
def goodEnd (s : State) : Prop := s.fault = .noFault

/-- R216: what is observed of a run. -/
structure Observation where
  responses : List Response
  status    : BitVec 4
  dout      : Option Block
  deriving DecidableEq, Repr

/-- R216: the observation at the end of a run. -/
def observe (s : State) : Observation := ⟨s.responses, status s, doutOutput s⟩

/-- R216: how many responses a list of events is owed: one for each command, none for a reset (R200, R201). -/
def commandsIn : List Event → Nat
  | [] => 0
  | .command _ :: rest => commandsIn rest + 1
  | .reset :: rest => commandsIn rest
  | .resetOver _ :: rest => commandsIn rest

/-- R47: the commands of a list executed one after the other. -/
def runCommands : List Command → State → Result
  | [], s => .next s
  | c :: rest, s => andThen (exec (decode c) s) (runCommands rest)

end Sys2Proof.Machine
end

