-- ==== Sys2Proof/Certificates/Slice0/Obligations.lean ====
section
/-! DEFINITION. The statements about the core, from the numbered rules of the spec. -/

open Sys2Proof Sys2Proof.Machine

/-! ### The step and its events -/

/-- 30_encoding.md R65, 70_reset_and_hazards.md R216: when the next event is a command, the step executes the instruction the
decoder reads from it, with the event taken from the port. Nothing else is put around `exec`. -/
def Obligations.StepRunsDecodedCommand : Prop :=
  ∀ (s : State) (c : Command) (rest : List Event), s.port = .command c :: rest →
    step s = exec (decode c) { s with port := rest }

/-- 70_reset_and_hazards.md R200: `RESET` leaves the reset state, whatever the state before, and gives no response. -/
def Obligations.ResetEventGivesResetState : Prop :=
  ∀ (s : State) (rest : List Event), s.port = .reset :: rest →
    ∃ t, step s = .next t ∧ t = { State.reset with port := rest, responses := s.responses } ∧ status t = 0b0000

/-- 60_exceptions.md R180, 70_reset_and_hazards.md R201: a reset that meets a command abandons it: no response, none of its
writes, the reset state. The event that carries the two is the model's (log entry 6). -/
def Obligations.ResetOverCommandAbandonsIt : Prop :=
  ∀ (s : State) (c : Command) (rest : List Event), s.port = .resetOver c :: rest →
    step s = .next { State.reset with port := rest, responses := s.responses }

/-- 60_exceptions.md R191: with no event the core is idle and keeps all state (the model's form of it, log entry 4). -/
def Obligations.IdleCoreKeepsItsState : Prop :=
  ∀ s : State, s.port = [] → step s = .next s

/-- 30_encoding.md R65: the whole step of a command, checks in the order of 60_exceptions.md R174. The premise says that the
round keys are there when `KEY_VALID` says so; `InvariantKeptByEveryStep` keeps it. -/
def Obligations.CommandDispatchOrder : Prop :=
  ∀ (c : Command) (s : State) (ks : RoundKeys), (s.keyValid = true → s.rk = some ks) →
    exec (decode c) s =
      if s.fault ≠ .noFault then .next { s with responses := s.responses ++ [⟨s.fault, none⟩] }
      else if opOf c.cmd = 0b00 then
        .next { s with fault := .illegalOp, responses := s.responses ++ [⟨.illegalOp, none⟩] }
      else if opOf c.cmd = 0b01 then
        if lenOf c.cmd ≠ 32 then
          .next { s with fault := .invalidLength, responses := s.responses ++ [⟨.invalidLength, none⟩] }
        else
          .next { s with rk := some (keySchedule c.din), keyValid := true,
                         responses := s.responses ++ [⟨.noFault, none⟩] }
      else if lenOf c.cmd ≠ 16 then
        .next { s with fault := .invalidLength, responses := s.responses ++ [⟨.invalidLength, none⟩] }
      else if s.keyValid = false then
        .next { s with fault := .keyNotLoaded, responses := s.responses ++ [⟨.keyNotLoaded, none⟩] }
      else
        let p : Block := c.din.extractLsb' 0 128
        let d := if opOf c.cmd = 0b10 then encryptBlock ks p else decryptBlock ks p
        .next { s with dout := some d, outValid := true, responses := s.responses ++ [⟨.noFault, some d⟩] }

/-! ### Faults -/

/-- 60_exceptions.md R176: in the faulted state every instruction changes nothing, and each of its commands is answered with the
stored code. -/
def Obligations.FaultedCoreRejectsEverything : Prop :=
  ∀ (i : Instr) (s : State), s.fault ≠ .noFault →
    exec i s = .next { s with
      responses := s.responses ++ List.replicate (encode i).length ⟨s.fault, none⟩ }

/-- 60_exceptions.md R175: a command that raises a fault records the code, answers it without data, and changes nothing else. -/
def Obligations.FaultEntryIsPrecise : Prop :=
  ∀ (c : Command) (s t : State), s.fault = .noFault → exec (decode c) s = .next t → t.fault ≠ .noFault →
    t = { s with fault := t.fault, responses := s.responses ++ [⟨t.fault, none⟩] }

/-- 60_exceptions.md R170 to R173: each fault is raised exactly by its cause, and by no data. -/
def Obligations.FaultCausesAreExact : Prop :=
  ∀ (c : Command) (s : State), s.fault = .noFault → (s.keyValid = true → s.rk.isSome) →
    ∃ t, exec (decode c) s = .next t ∧
      (t.fault = .invalidLength ↔
        (opOf c.cmd = 0b01 ∧ lenOf c.cmd ≠ 32) ∨
        ((opOf c.cmd = 0b10 ∨ opOf c.cmd = 0b11) ∧ lenOf c.cmd ≠ 16)) ∧
      (t.fault = .keyNotLoaded ↔
        (opOf c.cmd = 0b10 ∨ opOf c.cmd = 0b11) ∧ lenOf c.cmd = 16 ∧ s.keyValid = false) ∧
      (t.fault = .illegalOp ↔ opOf c.cmd = 0b00)

/-- 60_exceptions.md R177: only a reset leaves the faulted state or changes the stored code. -/
def Obligations.OnlyResetLeavesFaultedState : Prop :=
  ∀ s t : State, step s = .next t → s.fault ≠ .noFault → t.fault ≠ s.fault →
    (∃ rest, s.port = .reset :: rest) ∨ (∃ c rest, s.port = .resetOver c :: rest)

/-- 60_exceptions.md R172, 70_reset_and_hazards.md R205: `ENC` and `DEC` of a 16-byte block without a key take `KeyNotLoaded`. -/
def Obligations.CipherWithoutKeyTraps : Prop :=
  ∀ (din : Lanes) (s t : State), s.fault = .noFault → s.keyValid = false →
    t = { s with fault := .keyNotLoaded, responses := s.responses ++ [⟨.keyNotLoaded, none⟩] } →
    exec (.enc din) s = .next t ∧ exec (.dec din) s = .next t

/-- The model's choice (log entry 5): where `KEY_VALID` is 1 and `RK` holds no value, which no run reaches, `ENC` and `DEC` stop,
since a register that holds no value is never read as a number (10_state.md R30). -/
def Obligations.RoundKeysWithoutValueStop : Prop :=
  ∀ (din : Lanes) (s : State), s.fault = .noFault → s.keyValid = true → s.rk = none →
    exec (.enc din) s = .fault .noValue ∧ exec (.dec din) s = .fault .noValue

/-! ### What each instruction does -/

/-- 41_key_schedule.md R110: `LDKEY`, its whole next state. -/
def Obligations.LdkeyLoadsKeySchedule : Prop :=
  ∀ (din : Lanes) (s : State), s.fault = .noFault →
    exec (.ldkey din) s = .next { s with
      rk := some (keySchedule din), keyValid := true, responses := s.responses ++ [⟨.noFault, none⟩] }

/-- 42_encrypt.md R130: `ENC`, its whole next state. -/
def Obligations.EncStoresEncryptedBlock : Prop :=
  ∀ (din : Lanes) (s : State) (ks : RoundKeys), s.fault = .noFault → s.keyValid = true → s.rk = some ks →
    exec (.enc din) s = .next { s with
      dout := some (encryptBlock ks (din.extractLsb' 0 128)), outValid := true,
      responses := s.responses ++ [⟨.noFault, some (encryptBlock ks (din.extractLsb' 0 128))⟩] }

/-- 43_decrypt.md R150: `DEC`, its whole next state. -/
def Obligations.DecStoresDecryptedBlock : Prop :=
  ∀ (din : Lanes) (s : State) (ks : RoundKeys), s.fault = .noFault → s.keyValid = true → s.rk = some ks →
    exec (.dec din) s = .next { s with
      dout := some (decryptBlock ks (din.extractLsb' 0 128)), outValid := true,
      responses := s.responses ++ [⟨.noFault, some (decryptBlock ks (din.extractLsb' 0 128))⟩] }

/-- 60_exceptions.md R171, R175: the three wrong-length forms, their whole next state, whatever the key state is (R174). -/
def Obligations.WrongLengthFormsFault : Prop :=
  ∀ (o : Operand) (s t : State), s.fault = .noFault →
    t = { s with fault := .invalidLength, responses := s.responses ++ [⟨.invalidLength, none⟩] } →
    (o.len ≠ 32 → exec (.ldkeyBadlen o) s = .next t) ∧
    (o.len ≠ 16 → exec (.encBadlen o) s = .next t) ∧
    (o.len ≠ 16 → exec (.decBadlen o) s = .next t)

/-- 60_exceptions.md R173, R175: `op = 00`, its whole next state, whatever the length and the lanes are. -/
def Obligations.ReservedWordsAreIllegal : Prop :=
  ∀ (o : Operand) (s : State), s.fault = .noFault →
    exec (.reserved o) s = .next { s with
      fault := .illegalOp, responses := s.responses ++ [⟨.illegalOp, none⟩] }

/-- 30_encoding.md R70: `ENCRYPT` and `DECRYPT` with operands of the right lengths, their whole next state: the key is loaded,
whatever key was there, and the block is processed under it. -/
def Obligations.PseudoOperationsComplete : Prop :=
  ∀ (block key : Operand) (s : State) (c d : Block), s.fault = .noFault → key.len = 32 → block.len = 16 →
    c = encryptBlock (keySchedule key.lanes) (block.lanes.extractLsb' 0 128) →
    d = decryptBlock (keySchedule key.lanes) (block.lanes.extractLsb' 0 128) →
    exec (.encrypt block key) s = .next { s with
      rk := some (keySchedule key.lanes), keyValid := true, dout := some c, outValid := true,
      responses := s.responses ++ [⟨.noFault, none⟩, ⟨.noFault, some c⟩] } ∧
    exec (.decrypt block key) s = .next { s with
      rk := some (keySchedule key.lanes), keyValid := true, dout := some d, outValid := true,
      responses := s.responses ++ [⟨.noFault, none⟩, ⟨.noFault, some d⟩] }

/-- 30_encoding.md R70: with a wrong key length the first command faults and the second is rejected with the stored code; with a
right key and a wrong block length the key is loaded and the second command faults. -/
def Obligations.PseudoOperationsWrongLengths : Prop :=
  ∀ (block key : Operand) (s : State) (i : Instr), s.fault = .noFault →
    (i = .encrypt block key ∨ i = .decrypt block key) →
    (key.len ≠ 32 → exec i s = .next { s with
      fault := .invalidLength,
      responses := s.responses ++ [⟨.invalidLength, none⟩, ⟨.invalidLength, none⟩] }) ∧
    (key.len = 32 → block.len ≠ 16 → exec i s = .next { s with
      rk := some (keySchedule key.lanes), keyValid := true, fault := .invalidLength,
      responses := s.responses ++ [⟨.noFault, none⟩, ⟨.invalidLength, none⟩] })

/-- 30_encoding.md R70, 20_memory.md R47: the meaning of every well-formed instruction, the pseudo-operations among them, is that
of its commands one after the other. -/
def Obligations.InstructionIsItsCommands : Prop :=
  ∀ (i : Instr) (s : State), i.wellFormed = true → exec i s = runCommands (encode i) s

/-! ### Frames -/

/-- 41_key_schedule.md R110 ("Not written"): `LDKEY` leaves the result register, the fault code and the events alone, and a
rejected `LDKEY` the round keys too; it gives one response. -/
def Obligations.LdkeyFrame : Prop :=
  ∀ (din : Lanes) (s t : State), exec (.ldkey din) s = .next t →
    t.dout = s.dout ∧ t.outValid = s.outValid ∧ t.fault = s.fault ∧ t.port = s.port ∧
    (s.fault ≠ .noFault → t.rk = s.rk ∧ t.keyValid = s.keyValid) ∧
    ∃ r, t.responses = s.responses ++ [r]

/-- 42_encrypt.md R130, 43_decrypt.md R150 ("Not written"): `ENC` and `DEC` leave the round keys and the events alone; the fault
code unless they raise `KeyNotLoaded`; the result register where they are rejected or raise it. -/
def Obligations.CipherFrame : Prop :=
  ∀ (din : Lanes) (i : Instr) (s t : State), (i = .enc din ∨ i = .dec din) → exec i s = .next t →
    t.rk = s.rk ∧ t.keyValid = s.keyValid ∧ t.port = s.port ∧
    ((s.fault ≠ .noFault ∨ s.keyValid = true) → t.fault = s.fault) ∧
    ((s.fault ≠ .noFault ∨ s.keyValid = false) → t.dout = s.dout ∧ t.outValid = s.outValid) ∧
    ∃ r, t.responses = s.responses ++ [r]

/-- 60_exceptions.md R175: the wrong-length and the reserved forms leave every register but `FAULT` alone. -/
def Obligations.FaultingFormsFrame : Prop :=
  ∀ (o : Operand) (i : Instr) (s t : State),
    (i = .ldkeyBadlen o ∨ i = .encBadlen o ∨ i = .decBadlen o ∨ i = .reserved o) → i.wellFormed = true →
    exec i s = .next t →
    t.rk = s.rk ∧ t.keyValid = s.keyValid ∧ t.dout = s.dout ∧ t.outValid = s.outValid ∧ t.port = s.port ∧
    (s.fault ≠ .noFault → t.fault = s.fault) ∧ ∃ r, t.responses = s.responses ++ [r]

/-- 30_encoding.md R70: what a pseudo-operation leaves alone. -/
def Obligations.PseudoOperationsFrame : Prop :=
  ∀ (block key : Operand) (i : Instr) (s t : State),
    (i = .encrypt block key ∨ i = .decrypt block key) → exec i s = .next t →
    t.port = s.port ∧
    (s.fault ≠ .noFault → t.fault = s.fault) ∧
    ((s.fault ≠ .noFault ∨ key.len ≠ 32) → t.rk = s.rk ∧ t.keyValid = s.keyValid) ∧
    (t.fault ≠ .noFault → t.dout = s.dout ∧ t.outValid = s.outValid) ∧
    (s.fault = .noFault → key.len = 32 → block.len = 16 → t.fault = s.fault) ∧
    ∃ r₁ r₂, t.responses = s.responses ++ [r₁, r₂]

/-! ### Whole-machine rules -/

/-- 10_state.md R20 to R23: the round keys are written by `LDKEY` and by a reset only, the result register by `ENC`, `DEC` and a
reset only, in every step of every state. -/
def Obligations.OnlyTheirCommandsWriteRegisters : Prop :=
  ∀ s t : State, step s = .next t →
    ((t.rk = s.rk ∧ t.keyValid = s.keyValid) ∨
      (∃ rest, s.port = .reset :: rest) ∨ (∃ c rest, s.port = .resetOver c :: rest) ∨
      (∃ c rest, s.port = .command c :: rest ∧ c.cmd = 0x60 ∧ s.fault = .noFault ∧
        t.rk = some (keySchedule c.din) ∧ t.keyValid = true)) ∧
    ((t.dout = s.dout ∧ t.outValid = s.outValid) ∨
      (∃ rest, s.port = .reset :: rest) ∨ (∃ c rest, s.port = .resetOver c :: rest) ∨
      (∃ c rest, s.port = .command c :: rest ∧ (c.cmd = 0x90 ∨ c.cmd = 0xD0) ∧ s.fault = .noFault ∧
        s.keyValid = true ∧ t.outValid = true))

/-- The invariant holds after reset. -/
def Obligations.InvariantHoldsAtReset : Prop := Inv State.reset

/-- 10_state.md R21, R23, 30_encoding.md R66: every step keeps the invariant: `KEY_VALID` is 1 exactly when `RK` holds a value, which
is the schedule of a key, `OUT_VALID` is 1 exactly when `DOUT` holds a value, and data comes only with `OK`. -/
def Obligations.InvariantKeptByEveryStep : Prop :=
  ∀ s t : State, Inv s → step s = .next t → Inv t

/-- 10_state.md R31: the values after reset. -/
def Obligations.ResetStateValues : Prop :=
  State.reset.keyValid = false ∧ State.reset.outValid = false ∧ State.reset.fault = .noFault ∧
  State.reset.rk = none ∧ State.reset.dout = none ∧ status State.reset = 0b0000

/-- 10_state.md R29 with the codes of R24: `STATUS` is a view of `KEY_VALID`, `OUT_VALID` and `FAULT`, and
is 0 after reset. -/
def Obligations.StatusIsAView : Prop :=
  (∀ s : State, (status s).getLsbD 0 = s.keyValid ∧ (status s).getLsbD 1 = s.outValid ∧
    (status s).extractLsb' 2 2 = codeBits s.fault) ∧
  status State.reset = 0b0000 ∧
  codeBits .noFault = 0 ∧ codeBits .invalidLength = 1 ∧ codeBits .keyNotLoaded = 2 ∧ codeBits .illegalOp = 3

/-- 70_reset_and_hazards.md R215: from every state that keeps the invariant, every event waiting at the port is finished in one
step each, and every command among them gets exactly one response. -/
def Obligations.EveryCommandIsAnswered : Prop :=
  ∀ s : State, Inv s →
    ∃ t, Host.Core.run Sys2Proof.core s.port.length s = .next t ∧ t.port = [] ∧ Inv t ∧
      ∃ rs, t.responses = s.responses ++ rs ∧ rs.length = commandsIn s.port

/-- 60_exceptions.md R178: after a run of commands from a state with no fault and no response, `FAULT = 0` at the end says the same
as: every response was `OK`. -/
def Obligations.GoodEndMeansEveryResponseOk : Prop :=
  ∀ s t : State, s.fault = .noFault → s.responses = [] → (∀ e ∈ s.port, ∃ c, e = .command c) →
    Host.Core.run Sys2Proof.core s.port.length s = .next t →
    (goodEnd t ↔ ∀ r ∈ t.responses, r.rstat = .noFault)

/-- 60_exceptions.md R178, its step: from every state in which `FAULT = 0` says the same as "every response was `OK`", each command
leaves a state in which it still does. That the core keeps its responses is the model's (log entry 3). -/
def Obligations.NoFaultIffResponsesOkKept : Prop :=
  ∀ (s t : State) (c : Command) (rest : List Event), s.port = .command c :: rest →
    (goodEnd s ↔ ∀ r ∈ s.responses, r.rstat = .noFault) → step s = .next t →
    (goodEnd t ↔ ∀ r ∈ t.responses, r.rstat = .noFault)

/-- 43_decrypt.md R150, R155: on the core, `DEC` of what `ENC` stored gives the block back, and the other way round. -/
def Obligations.CipherCommandsUndoEachOther : Prop :=
  ∀ (din : Lanes) (s : State) (ks : RoundKeys), s.fault = .noFault → s.keyValid = true → s.rk = some ks →
    (∃ u t c, exec (.enc din) s = .next u ∧ u.dout = some c ∧
      exec (.dec (c.setWidth 256)) u = .next t ∧ t.dout = some (din.extractLsb' 0 128)) ∧
    (∃ u t c, exec (.dec din) s = .next u ∧ u.dout = some c ∧
      exec (.enc (c.setWidth 256)) u = .next t ∧ t.dout = some (din.extractLsb' 0 128))

/-- 20_memory.md R44: `DIN[255:128]` has no effect in `ENC` and `DEC`, and no lane has any effect in a command that faults. -/
def Obligations.IgnoredLanesHaveNoEffect : Prop :=
  (∀ (d e : Lanes) (s : State), d.extractLsb' 0 128 = e.extractLsb' 0 128 →
    exec (.enc d) s = exec (.enc e) s ∧ exec (.dec d) s = exec (.dec e) s) ∧
  (∀ (c : Command) (d : Lanes) (s t : State), exec (decode c) s = .next t → t.fault ≠ .noFault →
    exec (decode { c with din := d }) s = .next t)

/-- 10_state.md R20, 60_exceptions.md R185: nothing the host observes depends on the contents of `RK`, except through the results of
`ENC` and `DEC`; and what it observes of an `LDKEY` does not depend on the key. -/
def Obligations.RoundKeysAreNotObservable : Prop :=
  (∀ (c : Command) (s : State) (k₁ k₂ : RoundKeys),
    ¬ ((opOf c.cmd = 0b10 ∨ opOf c.cmd = 0b11) ∧ lenOf c.cmd = 16) →
    ∃ t₁ t₂, exec (decode c) { s with rk := some k₁ } = .next t₁ ∧
      exec (decode c) { s with rk := some k₂ } = .next t₂ ∧ observe t₁ = observe t₂) ∧
  (∀ (d₁ d₂ : Lanes) (s : State), ∃ t₁ t₂, exec (.ldkey d₁) s = .next t₁ ∧ exec (.ldkey d₂) s = .next t₂ ∧
    observe t₁ = observe t₂)

/-! ### Encoding -/

/-- 30_encoding.md R60, R62, R67: the decoder reads every instruction of the command port back from its command. -/
def Obligations.DecodeOfEncode : Prop :=
  ∀ i : Instr, i.wellFormed = true → i.isPseudo = false → ∃ c, encode i = [c] ∧ decode c = i

/-- 30_encoding.md R67: every command decodes to a well-formed instruction of the command port, and that instruction's command is
this one: no bit of `CMD` or `DIN` is lost and no two commands share an instruction. -/
def Obligations.EncodeOfDecode : Prop :=
  ∀ c : Command, (decode c).wellFormed = true ∧ (decode c).isPseudo = false ∧ encode (decode c) = [c]

/-- 30_encoding.md R67: the row of each of the 256 command words, whatever is on `DIN`. -/
def Obligations.CommandWordRows : Prop :=
  ∀ (w : BitVec 8) (din : Lanes),
    mnemonicOf (decode ⟨w, din⟩) =
      if w = 0x60 then "LDKEY" else if w = 0x90 then "ENC" else if w = 0xD0 then "DEC"
      else if w &&& 0xC0 = 0x00 then "(reserved)" else if w &&& 0xC0 = 0x40 then "LDKEY.badlen"
      else if w &&& 0xC0 = 0x80 then "ENC.badlen" else "DEC.badlen"

/-- 30_encoding.md R62 and 95_test_vectors.md section 6: some command words decode to the instruction they stand for. -/
def Obligations.SampleWordsDecode : Prop :=
  decode ⟨0b01100000, 0⟩ = .ldkey 0 ∧ decode ⟨0b10010000, 0⟩ = .enc 0 ∧ decode ⟨0b11010000, 0⟩ = .dec 0 ∧
  decode ⟨0x5F, 0⟩ = .ldkeyBadlen ⟨31, 0⟩ ∧ decode ⟨0x8F, 0⟩ = .encBadlen ⟨15, 0⟩ ∧
  decode ⟨0xC0, 0⟩ = .decBadlen ⟨0, 0⟩ ∧ decode ⟨0x3F, 0⟩ = .reserved ⟨63, 0⟩

/-- 30_encoding.md R69: a byte string of at most 63 bytes becomes a command with its length and its first 32 bytes on the lanes,
zero on the others; a longer one is refused. -/
def Obligations.AssemblerPlacesBytes : Prop :=
  ∀ (op : BitVec 2) (bs : List Byte),
    (63 < bs.length → assemble op bs = none) ∧
    (bs.length ≤ 63 → ∃ c, assemble op bs = some c ∧ opOf c.cmd = op ∧ (lenOf c.cmd).toNat = bs.length ∧
      ∀ j, j < 32 → byte c.din j = bs.getD j 0)

/-- 00_scope.md R11: bytes to bits and back. -/
def Obligations.BytesAndBitsAgree : Prop :=
  (∀ (n : Nat) (bs : List Byte), 8 * bs.length ≤ n → ∀ (j : Nat) (h : j < bs.length),
    byte (bytesToBits n bs) j = bs[j]) ∧
  (∀ bs : List Byte, bs.length = 16 → bitsToBytes (bytesToBits 128 bs) = bs) ∧
  (∀ v : Block, (bitsToBytes v).length = 16 ∧ bytesToBits 128 (bitsToBytes v) = v)

/-- 20_memory.md R42: the views of a block as words and as nibbles are consistent. -/
def Obligations.ViewsOfABlockAgree : Prop :=
  ∀ v : Block, words4 (wordsOf v) = v ∧ (∀ j, j < 32 → nib v j = nib (word v (j / 8)) (j % 8)) ∧
    (∀ j, j < 16 → byte v j = nib v (2 * j + 1) ++ nib v (2 * j))

/-! ### The contract of the source -/

/-- 20_memory.md R41, 30_encoding.md R70: the response of the second command of `ENCRYPT` and `DECRYPT` carries what the source's
functions give on the same byte strings, right or wrong lengths. That the result of a pseudo-operation is its second response in
every case, the first command's fault included, is inferred (log entry 9). -/
def Obligations.PseudoOperationsMeetContract : Prop :=
  ∀ (block key : List Byte) (b k : Operand) (s : State),
    operandOfBytes block = some b → operandOfBytes key = some k → s.fault = .noFault →
    (∃ t r, exec (.encrypt b k) s = .next t ∧ t.responses.getLast? = some r ∧ carries r (fefEncrypt block key)) ∧
    (∃ t r, exec (.decrypt b k) s = .next t ∧ t.responses.getLast? = some r ∧ carries r (fefDecrypt block key))

/-- 00_scope.md R3: 16 bytes from 16 and 32, `decrypt(encrypt(p,k),k) == p`, and `InvalidLength` for every other input. -/
def Obligations.ContractOfTheSource : Prop :=
  ∀ p k : List Byte,
    (p.length = 16 → k.length = 32 →
      ∃ c, fefEncrypt p k = .bytes c ∧ c.length = 16 ∧ fefDecrypt c k = .bytes p) ∧
    (¬ (p.length = 16 ∧ k.length = 32) → fefEncrypt p k = .invalidLength ∧ fefDecrypt p k = .invalidLength)

/-! ### Primitive functions -/

/-- 40_tables_and_primitives.md R81: rotation, bit by bit and as a sum, and the rotation to the right. -/
def Obligations.RotationMovesEveryBit : Prop :=
  ∀ (x : Word) (n : Nat), n < 32 →
    (∀ i, i < 32 → (rotl32 x n).getLsbD ((i + n) % 32) = x.getLsbD i) ∧
    (rotl32 x n).toNat = (if n = 0 then x.toNat else (x.toNat * 2 ^ n) % 2 ^ 32 + x.toNat / 2 ^ (32 - n)) ∧
    rotr32 x n = rotl32 x ((32 - n) % 32)

/-- 40_tables_and_primitives.md R83, R86: the eight boxes are permutations, pairwise different, and `SBOXINV` inverts them. -/
def Obligations.SboxesArePermutations : Prop :=
  (∀ (b : Nat) (x : Nibble), sboxInv b (sbox b x) = x ∧ sbox b (sboxInv b x) = x) ∧
  (∀ b c : Nat, b < 8 → c < 8 → b ≠ c → ∃ x, sbox b x ≠ sbox c x)

/-- 40_tables_and_primitives.md R84, R85, R87: both layers act on each nibble by itself, the box taken modulo 8. The half about
`Shatinv` is R87, which the spec marks as derived from R85 and R86. -/
def Obligations.SboxLayersActOnNibbles : Prop :=
  ∀ (b : Nat) (v : Block),
    (∀ j, j < 32 → nib (shat b v) j = sbox (b % 8) (nib v j) ∧ nib (shatInv b v) j = sboxInv (b % 8) (nib v j)) ∧
    shat (b % 8) v = shat b v ∧ shatInv (b % 8) v = shatInv b v

/-- 40_tables_and_primitives.md R87: the two layers undo each other. -/
def Obligations.SboxLayersAreInverse : Prop :=
  ∀ (b : Nat) (v : Block), shatInv b (shat b v) = v ∧ shat b (shatInv b v) = v

/-- 40_tables_and_primitives.md R88, R89: where the two permutations take each output bit from, by the formula and said the other
way round. -/
def Obligations.PermutationsMoveBits : Prop :=
  ∀ v : Block,
    (∀ i, i < 127 → (ip v).getLsbD i = v.getLsbD (32 * i % 127) ∧ (fp v).getLsbD i = v.getLsbD (4 * i % 127)) ∧
    (ip v).getLsbD 127 = v.getLsbD 127 ∧ (fp v).getLsbD 127 = v.getLsbD 127 ∧
    (∀ a c, a < 4 → c < 32 →
      (ip v).getLsbD (4 * c + a) = v.getLsbD (32 * a + c) ∧ (fp v).getLsbD (32 * a + c) = v.getLsbD (4 * c + a))

/-- 40_tables_and_primitives.md R90: the permutations are inverse to each other, as tables and as functions, and commute with `^`. -/
def Obligations.PermutationsAreInverse : Prop :=
  (∀ i : Fin 128, (∃ h : entry IPT i < 128, entry FPT ⟨entry IPT i, h⟩ = i) ∧
    (∃ h : entry FPT i < 128, entry IPT ⟨entry FPT i, h⟩ = i)) ∧
  (∀ v : Block, fp (ip v) = v ∧ ip (fp v) = v) ∧
  (∀ a b : Block, ip (a ^^^ b) = ip a ^^^ ip b ∧ fp (a ^^^ b) = fp a ^^^ fp b)

/-- 40_tables_and_primitives.md R91: each bit of `LT` is the exclusive-or over its tap list, and `LT` is linear, and so is `LTinv`. -/
def Obligations.LinearTransformIsLinear : Prop :=
  (∀ (v : Block) (i : Fin 128), (lt v).getLsbD i = parity v (entry LTT i)) ∧
  (∀ a b : Block, lt (a ^^^ b) = lt a ^^^ lt b ∧ ltInv (a ^^^ b) = ltInv a ^^^ ltInv b) ∧ lt 0 = 0 ∧ ltInv 0 = 0

/-- 40_tables_and_primitives.md R93: each bit of `LTinv` is the exclusive-or over its tap list, and `LT` and `LTinv` undo each other. -/
def Obligations.LinearTransformsAreInverse : Prop :=
  ∀ v : Block, (∀ i : Fin 128, (ltInv v).getLsbD i = parity v (entry LTTINV i)) ∧
    ltInv (lt v) = v ∧ lt (ltInv v) = v

/-- 40_tables_and_primitives.md R95: the tap lists and the word forms are the same functions. -/
def Obligations.LinearTransformWordForm : Prop :=
  ∀ v : Block, lt v = ip (words4 (ltw (wordsOf (fp v)))) ∧ ltInv v = ip (words4 (ltwInv (wordsOf (fp v))))

/-- 40_tables_and_primitives.md R96: `Scol` acts on each column, and is the S-box layer seen through the permutations. -/
def Obligations.ColumnSboxIsTheLayer : Prop :=
  ∀ (b : Nat) (x : FourWords),
    (∀ j, j < 32 → column (scol b x) j = sbox b (column x j)) ∧ words4 (scol b x) = fp (shat b (ip (words4 x)))

/-! ### Key schedule and cipher -/

/-- 41_key_schedule.md R112, R113: the first eight words are those of the key, and every computed word satisfies the recurrence
(`paddedPrekey key n` is `w[n-8]`). -/
def Obligations.PrekeyRecurrence : Prop :=
  ∀ key : Key,
    (∀ j, j < 8 → paddedPrekey key j = key.extractLsb' (32 * j) 32) ∧
    (∀ i, i ≤ 131 → paddedPrekey key (i + 8) =
      rotl32 (paddedPrekey key i ^^^ paddedPrekey key (i + 3) ^^^ paddedPrekey key (i + 5) ^^^
        paddedPrekey key (i + 7) ^^^ 0x9E3779B9 ^^^ BitVec.ofNat 32 i) 11)

/-- 41_key_schedule.md R114: the box of each round key. -/
def Obligations.KeyBoxSequence : Prop :=
  (∀ r, r ≤ 32 → keyBox r = (35 - r) % 8) ∧
  (List.range 33).map keyBox =
    [3, 2, 1, 0, 7, 6, 5, 4, 3, 2, 1, 0, 7, 6, 5, 4, 3, 2, 1, 0, 7, 6, 5, 4, 3, 2, 1, 0, 7, 6, 5, 4, 3]

/-- 41_key_schedule.md R117: nibble `j` of a round key is column `j` of the substituted words, and the round key is the S-box layer
on the permuted prekey words. -/
def Obligations.RoundKeyForms : Prop :=
  ∀ (key : Key) (r : Nat), r < 33 → ∃ k, (keySchedule key)[r]? = some k ∧
    k = ip (preRound key r) ∧
    (∀ j, j < 32 → nib k j = column (substitutedWords key r) j) ∧
    k = shat (keyBox r) (ip (words4
      (prekey key (4 * r), prekey key (4 * r + 1), prekey key (4 * r + 2), prekey key (4 * r + 3))))

/-- 41_key_schedule.md R118: the first two round keys already determine the key. -/
def Obligations.TwoRoundKeysDetermineTheKey : Prop :=
  ∀ k₁ k₂ : Key, roundKey k₁ 0 = roundKey k₂ 0 → roundKey k₁ 1 = roundKey k₂ 1 → k₁ = k₂

/-- 43_decrypt.md R155, which the spec marks as derived: for all round keys whatever, `Decrypt` and `Encrypt` undo each other, hence
for every key; and `Encrypt` is not its own inverse, nor is `Decrypt` (90_conflicts.md C3). -/
def Obligations.EncryptAndDecryptAreInverse : Prop :=
  (∀ (ks : RoundKeys) (v : Block), decryptBlock ks (encryptBlock ks v) = v ∧ encryptBlock ks (decryptBlock ks v) = v) ∧
  (∀ (key : Key) (p : Block), decryptBlock (keySchedule key) (encryptBlock (keySchedule key) p) = p) ∧
  (∃ (ks : RoundKeys) (v : Block), encryptBlock ks (encryptBlock ks v) ≠ v) ∧
  (∃ (ks : RoundKeys) (v : Block), decryptBlock ks (decryptBlock ks v) ≠ v)

/-- 42_encrypt.md R136, 43_decrypt.md R156: the word forms without `IP` and `FP` compute the same functions, for every key and block.
The spec marks both forms as general knowledge that is not in its source, and R136 as derived besides: an inference of the spec. -/
def Obligations.WordFormsOfTheCipher : Prop :=
  ∀ (key : Key) (v : Block),
    encryptBlock (keySchedule key) v = wordEncrypt key v ∧ decryptBlock (keySchedule key) v = wordDecrypt key v

/-! ### The host's keys (outside the core) -/

/-- 70_reset_and_hazards.md R211: the keys a test bench makes have 32 bytes, and the offset is back at 0 after `L / gcd(L, 32 mod L)`
blocks. -/
def Obligations.EnvelopeKeysAndOffsets : Prop :=
  (∀ (password : List Byte) (o : Nat), password ≠ [] → ∃ k, envelopeKey password o = some k ∧ k.length = 32) ∧
  (∀ len : Nat, 1 ≤ len → blockOffset len (len / Nat.gcd len (32 % len)) = 0)
end

