-- ==== Sys2Proof/Laws/Bits.lean ====
section
/-! SUPPORT. The bits of what the primitive functions build, and the recursion equations of the key schedule and of the rounds. -/

namespace Sys2Proof.Machine

theorem getLsbD_nib {n : Nat} (v : BitVec n) (j l : Nat) :
    (nib v j).getLsbD l = (decide (l < 4) && v.getLsbD (4 * j + l)) := by
  simp [nib, BitVec.getLsbD_extractLsb']

theorem getLsbD_byte {n : Nat} (v : BitVec n) (j l : Nat) :
    (byte v j).getLsbD l = (decide (l < 8) && v.getLsbD (8 * j + l)) := by
  simp [byte, BitVec.getLsbD_extractLsb']

theorem getLsbD_word {n : Nat} (v : BitVec n) (j l : Nat) :
    (word v j).getLsbD l = (decide (l < 32) && v.getLsbD (32 * j + l)) := by
  simp [word, BitVec.getLsbD_extractLsb']

theorem getLsbD_ofNibbles (f : Nat → Nibble) {i : Nat} (h : i < 128) :
    (ofNibbles f).getLsbD i = (f (i / 4)).getLsbD (i % 4) := by
  simp [ofNibbles, h]

theorem nib_ofNibbles (f : Nat → Nibble) {j : Nat} (h : j < 32) : nib (ofNibbles f) j = f j := by
  apply BitVec.eq_of_getLsbD_eq
  intro l hl
  rw [getLsbD_nib, getLsbD_ofNibbles f (by omega)]
  have hd : (4 * j + l) / 4 = j := by omega
  have hm : (4 * j + l) % 4 = l := by omega
  simp [hd, hm, hl]

theorem getLsbD_permute (table : Vector (Vector Nat 16) 8) (v : Block) (i : Fin 128) :
    (permute table v).getLsbD i = v.getLsbD (entry table i) := by
  simp [permute]

theorem getLsbD_tapMap (table : Vector (Vector (List Nat) 16) 8) (v : Block) (i : Fin 128) :
    (tapMap table v).getLsbD i = parity v (entry table i) := by
  simp [tapMap]

@[simp] theorem parity_nil (v : Block) : parity v [] = false := rfl

@[simp] theorem parity_cons (v : Block) (t : Nat) (ts : List Nat) :
    parity v (t :: ts) = (v.getLsbD t ^^ parity v ts) := rfl

theorem getLsbD_rowOf (f : Nat → Nibble) (l : Nat) {j : Nat} (h : j < 32) :
    (rowOf f l).getLsbD j = (f j).getLsbD l := by
  simp [rowOf, h]

/-- The four bits of a column, one from each word. -/
theorem getLsbD_column (x : FourWords) (j : Nat) :
    (column x j).getLsbD 0 = x.1.getLsbD j ∧ (column x j).getLsbD 1 = x.2.1.getLsbD j ∧
    (column x j).getLsbD 2 = x.2.2.1.getLsbD j ∧ (column x j).getLsbD 3 = x.2.2.2.getLsbD j := by
  refine ⟨?_, ?_, ?_, ?_⟩ <;> simp [column]

theorem column_ofColumns (f : Nat → Nibble) {j : Nat} (h : j < 32) : column (ofColumns f) j = f j := by
  obtain ⟨h0, h1, h2, h3⟩ := getLsbD_column (ofColumns f) j
  apply BitVec.eq_of_getLsbD_eq
  intro l hl
  have hcases : l = 0 ∨ l = 1 ∨ l = 2 ∨ l = 3 := by omega
  rcases hcases with rfl | rfl | rfl | rfl
  · rw [h0]; exact getLsbD_rowOf f 0 h
  · rw [h1]; exact getLsbD_rowOf f 1 h
  · rw [h2]; exact getLsbD_rowOf f 2 h
  · rw [h3]; exact getLsbD_rowOf f 3 h

@[simp] theorem window_zero (key : Key) : window key 0 = initialWindow key := rfl

@[simp] theorem window_succ (key : Key) (i : Nat) : window key (i + 1) = (window key i).push (prekey key i) := rfl

theorem at_keySchedule (key : Key) {r : Nat} (h : r < 33) : RoundKeys.at (keySchedule key) r = roundKey key r := by
  simp [RoundKeys.at, keySchedule, h]

@[simp] theorem bhat_zero (ks : RoundKeys) (p : Block) : bhat ks p 0 = ip p := rfl

@[simp] theorem bhat_succ (ks : RoundKeys) (p : Block) (r : Nat) :
    bhat ks p (r + 1) = encRound ks r (bhat ks p r) := rfl

@[simp] theorem undoRounds_zero (ks : RoundKeys) (b : Block) : undoRounds ks 0 b = b := rfl

@[simp] theorem undoRounds_succ (ks : RoundKeys) (r : Nat) (b : Block) :
    undoRounds ks (r + 1) b = undoRounds ks r (decRound ks r b) := rfl

end Sys2Proof.Machine
end

