-- ==== Sys2Proof/Laws/Decode.lean ====
section
/-! SUPPORT. The two fields of a command word, taken apart and put together. -/

namespace Sys2Proof

@[simp] theorem opOf_commandWord (op : BitVec 2) (len : BitVec 6) : opOf (commandWord op len) = op := by
  unfold opOf commandWord
  rw [BitVec.extractLsb'_append_eq_left]

@[simp] theorem lenOf_commandWord (op : BitVec 2) (len : BitVec 6) : lenOf (commandWord op len) = len := by
  unfold lenOf commandWord
  rw [BitVec.extractLsb'_append_eq_right]

/-- Every command word is made of its two fields. -/
theorem commandWord_fields (w : BitVec 8) : commandWord (opOf w) (lenOf w) = w := by
  revert w
  decide

@[simp] theorem commandOf_cmd (op : BitVec 2) (o : Operand) : (commandOf op o).cmd = commandWord op o.len := rfl

@[simp] theorem commandOf_din (op : BitVec 2) (o : Operand) : (commandOf op o).din = o.lanes := rfl

/-- The operation code of a word is one of four. -/
theorem opOf_cases (w : BitVec 8) : opOf w = 0b00 ∨ opOf w = 0b01 ∨ opOf w = 0b10 ∨ opOf w = 0b11 := by
  revert w
  decide

end Sys2Proof
end

