-- ==== Sys2Proof/Laws/State.lean ====
section
/-! SUPPORT. What each update of the state does to each field: one lemma per field per update, so that no later proof unfolds a
record update. -/

namespace Sys2Proof.Machine

/-! The fields after `respond` (30_encoding.md R66). -/

@[simp] theorem respond_rk (code : FaultCode) (data : Option Block) (s : State) : (respond code data s).rk = s.rk := rfl

@[simp] theorem respond_keyValid (code : FaultCode) (data : Option Block) (s : State) : (respond code data s).keyValid = s.keyValid := rfl

@[simp] theorem respond_dout (code : FaultCode) (data : Option Block) (s : State) : (respond code data s).dout = s.dout := rfl

@[simp] theorem respond_outValid (code : FaultCode) (data : Option Block) (s : State) : (respond code data s).outValid = s.outValid := rfl

@[simp] theorem respond_fault (code : FaultCode) (data : Option Block) (s : State) : (respond code data s).fault = s.fault := rfl

@[simp] theorem respond_port (code : FaultCode) (data : Option Block) (s : State) : (respond code data s).port = s.port := rfl

@[simp] theorem respond_responses (code : FaultCode) (data : Option Block) (s : State) : (respond code data s).responses = s.responses ++ [⟨code, data⟩] := rfl

/-! The fields after `loadRoundKeys` (41_key_schedule.md R110). -/

@[simp] theorem loadRoundKeys_rk (ks : RoundKeys) (s : State) : (loadRoundKeys ks s).rk = some ks := rfl

@[simp] theorem loadRoundKeys_keyValid (ks : RoundKeys) (s : State) : (loadRoundKeys ks s).keyValid = true := rfl

@[simp] theorem loadRoundKeys_dout (ks : RoundKeys) (s : State) : (loadRoundKeys ks s).dout = s.dout := rfl

@[simp] theorem loadRoundKeys_outValid (ks : RoundKeys) (s : State) : (loadRoundKeys ks s).outValid = s.outValid := rfl

@[simp] theorem loadRoundKeys_fault (ks : RoundKeys) (s : State) : (loadRoundKeys ks s).fault = s.fault := rfl

@[simp] theorem loadRoundKeys_port (ks : RoundKeys) (s : State) : (loadRoundKeys ks s).port = s.port := rfl

@[simp] theorem loadRoundKeys_responses (ks : RoundKeys) (s : State) : (loadRoundKeys ks s).responses = s.responses := rfl

/-! The fields after `storeResult` (42_encrypt.md R130). -/

@[simp] theorem storeResult_rk (d : Block) (s : State) : (storeResult d s).rk = s.rk := rfl

@[simp] theorem storeResult_keyValid (d : Block) (s : State) : (storeResult d s).keyValid = s.keyValid := rfl

@[simp] theorem storeResult_dout (d : Block) (s : State) : (storeResult d s).dout = some d := rfl

@[simp] theorem storeResult_outValid (d : Block) (s : State) : (storeResult d s).outValid = true := rfl

@[simp] theorem storeResult_fault (d : Block) (s : State) : (storeResult d s).fault = s.fault := rfl

@[simp] theorem storeResult_port (d : Block) (s : State) : (storeResult d s).port = s.port := rfl

@[simp] theorem storeResult_responses (d : Block) (s : State) : (storeResult d s).responses = s.responses := rfl

/-! The fields after `resetCore` (70_reset_and_hazards.md R200). -/

@[simp] theorem resetCore_rk (s : State) : (resetCore s).rk = none := rfl

@[simp] theorem resetCore_keyValid (s : State) : (resetCore s).keyValid = false := rfl

@[simp] theorem resetCore_dout (s : State) : (resetCore s).dout = none := rfl

@[simp] theorem resetCore_outValid (s : State) : (resetCore s).outValid = false := rfl

@[simp] theorem resetCore_fault (s : State) : (resetCore s).fault = .noFault := rfl

@[simp] theorem resetCore_port (s : State) : (resetCore s).port = s.port := rfl

@[simp] theorem resetCore_responses (s : State) : (resetCore s).responses = s.responses := rfl

/-! The fields after `present` (70_reset_and_hazards.md R213). -/

@[simp] theorem present_rk (e : Event) (s : State) : (present e s).rk = s.rk := rfl

@[simp] theorem present_keyValid (e : Event) (s : State) : (present e s).keyValid = s.keyValid := rfl

@[simp] theorem present_dout (e : Event) (s : State) : (present e s).dout = s.dout := rfl

@[simp] theorem present_outValid (e : Event) (s : State) : (present e s).outValid = s.outValid := rfl

@[simp] theorem present_fault (e : Event) (s : State) : (present e s).fault = s.fault := rfl

@[simp] theorem present_port (e : Event) (s : State) : (present e s).port = e :: s.port := rfl

@[simp] theorem present_responses (e : Event) (s : State) : (present e s).responses = s.responses := rfl

end Sys2Proof.Machine
end

