-- ==== Sys2Proof/Laws/Ops.lean ====
section
/-! SUPPORT. What each shared operation can answer, said once. -/

namespace Sys2Proof.Machine

theorem unlessFaulted_of_noFault {run : State → Result} {s : State} (h : s.fault = .noFault) :
    unlessFaulted run s = run s := if_pos h

theorem unlessFaulted_of_fault {run : State → Result} {s : State} (h : s.fault ≠ .noFault) :
    unlessFaulted run s = .next (respond s.fault none s) := if_neg h

theorem withRoundKeys_some {s : State} {ks : RoundKeys} (h : s.rk = some ks) (run : RoundKeys → Result) :
    withRoundKeys s run = run ks := by simp [withRoundKeys, h]

theorem withRoundKeys_none {s : State} (h : s.rk = none) (run : RoundKeys → Result) :
    withRoundKeys s run = .fault .noValue := by simp [withRoundKeys, h]

@[simp] theorem andThen_next (s : State) (next : State → Result) : andThen (.next s) next = next s := rfl

@[simp] theorem andThen_fault (f : Fault) (next : State → Result) : andThen (.fault f) next = .fault f := rfl

@[simp] theorem andThen_refused (r : Refusal) (next : State → Result) : andThen (.refused r) next = .refused r := rfl

theorem andThen_eq_next {first : Result} {next : State → Result} {t : State} (h : andThen first next = .next t) :
    ∃ u, first = .next u ∧ next u = .next t := by
  cases first with
  | next u => exact ⟨u, rfl, h⟩
  | fault f => cases h
  | refused r => cases h

/-- A command with `op = 01` always has a next state: rejected, wrong length, or loaded. -/
theorem ldkeyCommand_cases (o : Operand) (s : State) :
    (s.fault ≠ .noFault ∧ ldkeyCommand o s = .next (respond s.fault none s)) ∨
    (s.fault = .noFault ∧ o.len ≠ Config.keyLen ∧ ldkeyCommand o s = takeFault .invalidLength s) ∨
    (s.fault = .noFault ∧ o.len = Config.keyLen ∧
      ldkeyCommand o s =
        .next (respond .noFault none (loadRoundKeys (keySchedule (keyOperand o.lanes)) s))) := by
  by_cases hf : s.fault = .noFault
  · by_cases hl : o.len = Config.keyLen
    · exact .inr (.inr ⟨hf, hl, by simp [ldkeyCommand, unlessFaulted_of_noFault hf, hl]⟩)
    · exact .inr (.inl ⟨hf, hl, by simp [ldkeyCommand, unlessFaulted_of_noFault hf, hl]⟩)
  · exact .inl ⟨hf, unlessFaulted_of_fault hf⟩

/-- A command with `op = 10` or `11`: rejected, wrong length, no key, done, or a read of round keys that hold no value. -/
theorem cipherCommand_cases (cipher : RoundKeys → Block → Block) (o : Operand) (s : State) :
    (s.fault ≠ .noFault ∧ cipherCommand cipher o s = .next (respond s.fault none s)) ∨
    (s.fault = .noFault ∧ o.len ≠ Config.blockLen ∧ cipherCommand cipher o s = takeFault .invalidLength s) ∨
    (s.fault = .noFault ∧ o.len = Config.blockLen ∧ s.keyValid = false ∧
      cipherCommand cipher o s = takeFault .keyNotLoaded s) ∨
    (∃ ks, s.fault = .noFault ∧ o.len = Config.blockLen ∧ s.keyValid = true ∧ s.rk = some ks ∧
      cipherCommand cipher o s =
        .next (respond .noFault (some (cipher ks (blockOperand o.lanes)))
          (storeResult (cipher ks (blockOperand o.lanes)) s))) ∨
    (s.fault = .noFault ∧ o.len = Config.blockLen ∧ s.keyValid = true ∧ s.rk = none ∧
      cipherCommand cipher o s = .fault .noValue) := by
  by_cases hf : s.fault = .noFault
  · refine .inr ?_
    by_cases hl : o.len = Config.blockLen
    · refine .inr ?_
      by_cases hk : s.keyValid = true
      · refine .inr ?_
        cases hr : s.rk with
        | some ks => exact .inl ⟨ks, hf, hl, hk, rfl, by
            simp [cipherCommand, unlessFaulted_of_noFault hf, hl, hk, withRoundKeys_some hr]⟩
        | none => exact .inr ⟨hf, hl, hk, rfl, by
            simp [cipherCommand, unlessFaulted_of_noFault hf, hl, hk, withRoundKeys_none hr]⟩
      · exact .inl ⟨hf, hl, by simpa using hk, by
          simp [cipherCommand, unlessFaulted_of_noFault hf, hl, hk]⟩
    · exact .inl ⟨hf, hl, by simp [cipherCommand, unlessFaulted_of_noFault hf, hl]⟩
  · exact .inl ⟨hf, unlessFaulted_of_fault hf⟩

/-- A command with `op = 00` always has a next state: rejected or illegal. -/
theorem reservedCommand_cases (s : State) :
    (s.fault ≠ .noFault ∧ reservedCommand s = .next (respond s.fault none s)) ∨
    (s.fault = .noFault ∧ reservedCommand s = takeFault .illegalOp s) := by
  by_cases hf : s.fault = .noFault
  · exact .inr ⟨hf, unlessFaulted_of_noFault hf⟩
  · exact .inl ⟨hf, unlessFaulted_of_fault hf⟩

@[simp] theorem nextEvent_nil {s : State} (h : s.port = []) : nextEvent s = none := by simp [nextEvent, h]

theorem nextEvent_cons {s : State} {e : Event} {rest : List Event} (h : s.port = e :: rest) :
    nextEvent s = some (e, { s with port := rest }) := by simp [nextEvent, h]

@[simp] theorem nextEvent_present (e : Event) (s : State) : nextEvent (present e s) = some (e, s) := rfl

end Sys2Proof.Machine
end

