-- ==== Sys2Proof/Laws/Exec.lean ====
section
/-! SUPPORT. Each instruction in terms of the shared command it is, and `exec` of a decoded command by its operation code. -/

namespace Sys2Proof.Machine

theorem exec_ldkey (din : Lanes) (s : State) : exec (.ldkey din) s = ldkeyCommand ⟨Config.keyLen, din⟩ s := rfl

theorem exec_enc (din : Lanes) (s : State) :
    exec (.enc din) s = cipherCommand encryptBlock ⟨Config.blockLen, din⟩ s := rfl

theorem exec_dec (din : Lanes) (s : State) :
    exec (.dec din) s = cipherCommand decryptBlock ⟨Config.blockLen, din⟩ s := rfl

theorem exec_ldkeyBadlen (o : Operand) (s : State) : exec (.ldkeyBadlen o) s = ldkeyCommand o s := rfl

theorem exec_encBadlen (o : Operand) (s : State) : exec (.encBadlen o) s = cipherCommand encryptBlock o s := rfl

theorem exec_decBadlen (o : Operand) (s : State) : exec (.decBadlen o) s = cipherCommand decryptBlock o s := rfl

theorem exec_reserved (o : Operand) (s : State) : exec (.reserved o) s = reservedCommand s := rfl

theorem exec_encrypt (block key : Operand) (s : State) :
    exec (.encrypt block key) s = andThen (ldkeyCommand key s) (cipherCommand encryptBlock block) := rfl

theorem exec_decrypt (block key : Operand) (s : State) :
    exec (.decrypt block key) s = andThen (ldkeyCommand key s) (cipherCommand decryptBlock block) := rfl

theorem exec_decode_op00 {c : Command} (h : opOf c.cmd = 0b00) (s : State) :
    exec (decode c) s = reservedCommand s := by
  rw [decode, if_pos h, exec_reserved]

theorem exec_decode_op01 {c : Command} (h : opOf c.cmd = 0b01) (s : State) :
    exec (decode c) s = ldkeyCommand ⟨lenOf c.cmd, c.din⟩ s := by
  rw [decode, if_neg (by rw [h]; decide), if_pos h]
  split
  · next hl => rw [exec_ldkey, ← hl]
  · rw [exec_ldkeyBadlen]

theorem exec_decode_op10 {c : Command} (h : opOf c.cmd = 0b10) (s : State) :
    exec (decode c) s = cipherCommand encryptBlock ⟨lenOf c.cmd, c.din⟩ s := by
  rw [decode, if_neg (by rw [h]; decide), if_neg (by rw [h]; decide), if_pos h]
  split
  · next hl => rw [exec_enc, ← hl]
  · rw [exec_encBadlen]

theorem exec_decode_op11 {c : Command} (h : opOf c.cmd = 0b11) (s : State) :
    exec (decode c) s = cipherCommand decryptBlock ⟨lenOf c.cmd, c.din⟩ s := by
  rw [decode, if_neg (by rw [h]; decide), if_neg (by rw [h]; decide), if_neg (by rw [h]; decide)]
  split
  · next hl => rw [exec_dec, ← hl]
  · rw [exec_decBadlen]

/-- The cause of each fault (60_exceptions.md R171 to R173), of which a command meets at most one. -/
def FaultCause (c : Command) (s : State) : FaultCode → Prop
  | .noFault => False
  | .illegalOp => opOf c.cmd = 0b00
  | .invalidLength =>
    (opOf c.cmd = 0b01 ∧ lenOf c.cmd ≠ Config.keyLen) ∨
      ((opOf c.cmd = 0b10 ∨ opOf c.cmd = 0b11) ∧ lenOf c.cmd ≠ Config.blockLen)
  | .keyNotLoaded =>
    (opOf c.cmd = 0b10 ∨ opOf c.cmd = 0b11) ∧ lenOf c.cmd = Config.blockLen ∧ s.keyValid = false

/-- What a command can do to a state: be rejected, raise the fault its word calls for, load a key, or store a result. -/
inductive CommandEffect (c : Command) (s : State) : State → Prop
  | rejected (hf : s.fault ≠ .noFault) : CommandEffect c s (respond s.fault none s)
  | faulted (f : FaultCode) (hf : s.fault = .noFault) (hcause : FaultCause c s f) :
      CommandEffect c s (respond f none { s with fault := f })
  | loaded (hf : s.fault = .noFault) (hop : opOf c.cmd = 0b01) (hl : lenOf c.cmd = Config.keyLen) :
      CommandEffect c s (respond .noFault none (loadRoundKeys (keySchedule (keyOperand c.din)) s))
  | stored (d : Block) (hf : s.fault = .noFault) (hop : opOf c.cmd = 0b10 ∨ opOf c.cmd = 0b11)
      (hl : lenOf c.cmd = Config.blockLen) (hv : s.keyValid = true) :
      CommandEffect c s (respond .noFault (some d) (storeResult d s))

theorem cipherCommand_effect {c : Command} {s : State} (hop : opOf c.cmd = 0b10 ∨ opOf c.cmd = 0b11)
    (hk : s.keyValid = true → s.rk ≠ none) (cipher : RoundKeys → Block → Block) :
    ∃ t, cipherCommand cipher ⟨lenOf c.cmd, c.din⟩ s = .next t ∧ CommandEffect c s t := by
  rcases cipherCommand_cases cipher ⟨lenOf c.cmd, c.din⟩ s with
    ⟨hf, hx⟩ | ⟨hf, hl, hx⟩ | ⟨hf, hl, hv, hx⟩ | ⟨ks, hf, hl, hv, _, hx⟩ | ⟨_, _, hv, hr, _⟩
  · exact ⟨_, hx, .rejected hf⟩
  · exact ⟨_, hx, .faulted .invalidLength hf (.inr ⟨hop, hl⟩)⟩
  · exact ⟨_, hx, .faulted .keyNotLoaded hf ⟨hop, hl, hv⟩⟩
  · exact ⟨_, hx, .stored _ hf hop hl hv⟩
  · exact absurd hr (hk hv)

/-- Where the round keys are there when `KEY_VALID` says so, every command has a next state, and that is all it can be. -/
theorem exec_decode_effect (c : Command) (s : State) (hk : s.keyValid = true → s.rk ≠ none) :
    ∃ t, exec (decode c) s = .next t ∧ CommandEffect c s t := by
  rcases opOf_cases c.cmd with hop | hop | hop | hop
  · rw [exec_decode_op00 hop]
    rcases reservedCommand_cases s with ⟨hf, hx⟩ | ⟨hf, hx⟩
    · exact ⟨_, hx, .rejected hf⟩
    · exact ⟨_, hx, .faulted .illegalOp hf hop⟩
  · rw [exec_decode_op01 hop]
    rcases ldkeyCommand_cases ⟨lenOf c.cmd, c.din⟩ s with ⟨hf, hx⟩ | ⟨hf, hl, hx⟩ | ⟨hf, hl, hx⟩
    · exact ⟨_, hx, .rejected hf⟩
    · exact ⟨_, hx, .faulted .invalidLength hf (.inl ⟨hop, hl⟩)⟩
    · exact ⟨_, hx, .loaded hf hop hl⟩
  · rw [exec_decode_op10 hop]
    exact cipherCommand_effect (.inl hop) hk encryptBlock
  · rw [exec_decode_op11 hop]
    exact cipherCommand_effect (.inr hop) hk decryptBlock

theorem cipherCommand_next {cipher : RoundKeys → Block → Block} {c : Command} {s t : State}
    (hop : opOf c.cmd = 0b10 ∨ opOf c.cmd = 0b11) (h : cipherCommand cipher ⟨lenOf c.cmd, c.din⟩ s = .next t) :
    CommandEffect c s t := by
  rcases cipherCommand_cases cipher ⟨lenOf c.cmd, c.din⟩ s with
    ⟨hf, hx⟩ | ⟨hf, hl, hx⟩ | ⟨hf, hl, hv, hx⟩ | ⟨ks, hf, hl, hv, _, hx⟩ | ⟨_, _, _, _, hx⟩ <;> rw [hx] at h <;> cases h
  · exact .rejected hf
  · exact .faulted .invalidLength hf (.inr ⟨hop, hl⟩)
  · exact .faulted .keyNotLoaded hf ⟨hop, hl, hv⟩
  · exact .stored _ hf hop hl hv

/-- What a command left, in any state whatever, is one of the effects. -/
theorem exec_decode_next {c : Command} {s t : State} (h : exec (decode c) s = .next t) : CommandEffect c s t := by
  rcases opOf_cases c.cmd with hop | hop | hop | hop
  · rw [exec_decode_op00 hop] at h
    rcases reservedCommand_cases s with ⟨hf, hx⟩ | ⟨hf, hx⟩ <;> rw [hx] at h <;> cases h
    · exact .rejected hf
    · exact .faulted .illegalOp hf hop
  · rw [exec_decode_op01 hop] at h
    rcases ldkeyCommand_cases ⟨lenOf c.cmd, c.din⟩ s with ⟨hf, hx⟩ | ⟨hf, hl, hx⟩ | ⟨hf, hl, hx⟩ <;> rw [hx] at h <;> cases h
    · exact .rejected hf
    · exact .faulted .invalidLength hf (.inl ⟨hop, hl⟩)
    · exact .loaded hf hop hl
  · rw [exec_decode_op10 hop] at h
    exact cipherCommand_next (.inl hop) h
  · rw [exec_decode_op11 hop] at h
    exact cipherCommand_next (.inr hop) h

end Sys2Proof.Machine
end

