-- ==== Sys2Proof/Laws/PerInstr.lean ====
section
/-! SUPPORT. The family `CommandCount`: how many commands an instruction is made of (spec 30_encoding.md R67, R70), one lemma for
each constructor. -/

/-- An instruction of the command port is one command, a pseudo-operation is two. -/
def Sys2Proof.Laws.CommandCount.Statement (i : Sys2Proof.Instr) : Prop :=
  (Sys2Proof.encode i).length = if i.isPseudo then 2 else 1

namespace Sys2Proof.Laws.CommandCount

theorem ldkey (din : Lanes) : Statement (.ldkey din) := rfl
theorem enc (din : Lanes) : Statement (.enc din) := rfl
theorem dec (din : Lanes) : Statement (.dec din) := rfl
theorem ldkeyBadlen (operand : Operand) : Statement (.ldkeyBadlen operand) := rfl
theorem encBadlen (operand : Operand) : Statement (.encBadlen operand) := rfl
theorem decBadlen (operand : Operand) : Statement (.decBadlen operand) := rfl
theorem reserved (operand : Operand) : Statement (.reserved operand) := rfl
theorem encrypt (block key : Operand) : Statement (.encrypt block key) := rfl
theorem decrypt (block key : Operand) : Statement (.decrypt block key) := rfl

end Sys2Proof.Laws.CommandCount
end

