-- ==== Sys2Proof/Laws/Run.lean ====
section
/-! SUPPORT. A run of the machine, one step at a time. -/

namespace Sys2Proof.Machine

theorem run_zero (s : State) : Host.Core.run Sys2Proof.core 0 s = .next s := rfl

theorem core_run_of_next (M : Host.Core) (k : Nat) {s t : M.State} (h : M.step s = .next t) :
    M.run (k + 1) s = M.run k t := by rw [Host.Core.run, h]

theorem core_run_of_fault (M : Host.Core) (k : Nat) {s : M.State} {f : M.Fault} (h : M.step s = .fault f) :
    M.run (k + 1) s = .fault f := by rw [Host.Core.run, h]

theorem core_run_of_refused (M : Host.Core) (k : Nat) {s : M.State} {r : M.Refusal} (h : M.step s = .refused r) :
    M.run (k + 1) s = .refused r := by rw [Host.Core.run, h]

/-- The first step, then the rest. -/
theorem run_succ (k : Nat) (s : State) :
    Host.Core.run Sys2Proof.core (k + 1) s = andThen (step s) (Host.Core.run Sys2Proof.core k) := by
  cases h : step s with
  | next t => exact core_run_of_next Sys2Proof.core k h
  | fault f => exact core_run_of_fault Sys2Proof.core k h
  | refused r => exact core_run_of_refused Sys2Proof.core k h

/-- An invariant of every step is an invariant of every run. -/
theorem run_keeps {P : State → Prop} (hstep : ∀ s t, P s → step s = .next t → P t) :
    ∀ (k : Nat) (s t : State), P s → Host.Core.run Sys2Proof.core k s = .next t → P t
  | 0, s, t, hs, h => by
    rw [run_zero] at h
    cases h
    exact hs
  | k + 1, s, t, hs, h => by
    rw [run_succ] at h
    cases hu : step s with
    | next u => exact run_keeps hstep k u t (hstep s u hs hu) (by simpa [hu, andThen] using h)
    | fault f => simp [hu, andThen] at h
    | refused r => simp [hu, andThen] at h

end Sys2Proof.Machine
end

