-- ==== Sys2Proof/Machine/Text.lean ====
section
/-! DEFINITION. The text of a program (spec 30_encoding.md R69, R70): one command per line, `;` starts a comment, mnemonics in upper
case, byte strings in hexadecimal with `b[0]` first. A line is given as its characters. -/

namespace Sys2Proof.Machine

/-- A hexadecimal digit, in either case (log entry 16). -/
def hexDigit (c : Char) : Option Nibble :=
  let n := c.toNat
  if 48 ≤ n ∧ n ≤ 57 then some (BitVec.ofNat 4 (n - 48))
  else if 65 ≤ n ∧ n ≤ 70 then some (BitVec.ofNat 4 (n - 55))
  else if 97 ≤ n ∧ n ≤ 102 then some (BitVec.ofNat 4 (n - 87))
  else none

/-- R69: two digits for each byte; an odd number of digits is refused. -/
def hexBytes : List Char → Option (List Byte)
  | [] => some []
  | [_] => none
  | h :: l :: rest =>
    match hexDigit h, hexDigit l, hexBytes rest with
    | some hi, some lo, some bs => some ((hi ++ lo : Byte) :: bs)
    | _, _, _ => none

/-- The line up to its comment. -/
def beforeComment : List Char → List Char
  | [] => []
  | c :: cs => if c = ';' then [] else c :: beforeComment cs

/-- A word read in reverse, put before the words that follow it; none where nothing was read. -/
def endWord (word : List Char) (rest : List (List Char)) : List (List Char) :=
  if word = [] then rest else word.reverse :: rest

/-- The words of a line, `word` the one being read, in reverse. Spaces stand between words, and a comma is a word of its own
(DESIGN CHOICE, log entry 16: R69 and R70 do not name the separators). -/
def wordsOfLine : List Char → List Char → List (List Char)
  | word, [] => endWord word []
  | word, c :: cs =>
    if c = ' ' then endWord word (wordsOfLine [] cs)
    else if c = ',' then endWord word ([','] :: wordsOfLine [] cs)
    else wordsOfLine (c :: word) cs

/-- R69: a line with one operand, which may be empty. -/
def lineOf (mnemonic : List Char) (bs : List Byte) : Option Line :=
  if mnemonic = ['L', 'D', 'K', 'E', 'Y'] then some (.ldkey bs)
  else if mnemonic = ['E', 'N', 'C'] then some (.enc bs)
  else if mnemonic = ['D', 'E', 'C'] then some (.dec bs)
  else none

/-- R70: a pseudo-operation, its block written before its key. -/
def pseudoLineOf (mnemonic : List Char) (block key : List Byte) : Option Line :=
  if mnemonic = ['E', 'N', 'C', 'R', 'Y', 'P', 'T'] then some (.encrypt block key)
  else if mnemonic = ['D', 'E', 'C', 'R', 'Y', 'P', 'T'] then some (.decrypt block key)
  else none

/-- The line its words spell; none where they spell no line. The two operands of a pseudo-operation stand on either side of its
comma, and each may be empty, as R69 says of `<hex>`. R70 does not say how an empty one is spelled: nothing on that side of the
comma, and a pseudo-operation without its comma is refused. Of `.cmd` R69 gives the one line `.cmd 0x00`: here it writes any of the 256
command words, as `0x` and exactly two digits, and any other spelling is refused (DESIGN CHOICE, log entry 16). -/
def lineOfWords : List (List Char) → Option Line
  | [m] => if m = ['R', 'E', 'S', 'E', 'T'] then some .reset else lineOf m []
  | [m, '0' :: 'x' :: digits] =>
    if m = ['.', 'c', 'm', 'd'] then
      match hexBytes digits with
      | some [w] => some (.rawCmd w)
      | _ => none
    else none
  | [m, [',']] => pseudoLineOf m [] []
  | [m, operand] => (hexBytes operand).bind (lineOf m)
  | [m, [','], key] => (hexBytes key).bind (pseudoLineOf m [])
  | [m, block, [',']] => (hexBytes block).bind fun b => pseudoLineOf m b []
  | [m, block, [','], key] => (hexBytes block).bind fun b => (hexBytes key).bind (pseudoLineOf m b)
  | _ => none

/-- The events of one line of text; an empty line or a comment alone has none (DESIGN CHOICE, log entry 16). -/
def eventsOfText (line : List Char) : Option (List Event) :=
  match wordsOfLine [] (beforeComment line) with
  | [] => some []
  | ws => (lineOfWords ws).bind eventsOfLine

end Sys2Proof.Machine
end

