-- ==== Sys2Proof/Tests/Slice0.lean ====
section
/-! SUPPORT. Tests of the model. Every expected value is the spec's own: 95_test_vectors.md where a vector or a row F<n> is named,
the encoding tables of 30_encoding.md for the command words. The witnesses at the end meet the hypotheses of the statements. -/

namespace Sys2Proof.Tests

open Sys2Proof Sys2Proof.Machine

/-! ### WellFormed: an ill-formed term for each check -/

theorem test_wellFormed_refuses_ldkeyBadlen_32 : (Instr.ldkeyBadlen ⟨32, 0⟩).wellFormed = false := by decide
theorem test_wellFormed_refuses_encBadlen_16 : (Instr.encBadlen ⟨16, 0⟩).wellFormed = false := by decide
theorem test_wellFormed_refuses_decBadlen_16 : (Instr.decBadlen ⟨16, 0⟩).wellFormed = false := by decide
theorem test_wellFormed_accepts_wrong_lengths :
    (Instr.ldkeyBadlen ⟨16, 0⟩).wellFormed = true ∧ (Instr.encBadlen ⟨32, 0⟩).wellFormed = true ∧
    (Instr.decBadlen ⟨0, 0⟩).wellFormed = true := by decide

/-! ### Decode: words written from R60 and R62 (`op` in bits 7:6, `len` in bits 5:0) -/

theorem test_decode_ldkey : decode ⟨0b01100000, 5⟩ = .ldkey 5 := by decide
theorem test_decode_enc : decode ⟨0b10010000, 5⟩ = .enc 5 := by decide
theorem test_decode_dec : decode ⟨0b11010000, 5⟩ = .dec 5 := by decide
theorem test_decode_ldkeyBadlen : decode ⟨0b01011111, 5⟩ = .ldkeyBadlen ⟨31, 5⟩ := by decide
theorem test_decode_encBadlen : decode ⟨0b10001111, 5⟩ = .encBadlen ⟨15, 5⟩ := by decide
theorem test_decode_decBadlen : decode ⟨0b11111111, 5⟩ = .decBadlen ⟨63, 5⟩ := by decide
theorem test_decode_reserved : decode ⟨0b00111111, 5⟩ = .reserved ⟨63, 5⟩ := by decide

/-- R67: 64 illegal words, 189 of a wrong length, and one of each operation. -/
theorem test_decode_counts :
    (["(reserved)", "LDKEY", "LDKEY.badlen", "ENC", "ENC.badlen", "DEC", "DEC.badlen"].map fun m =>
      ((List.range 256).filter fun w => mnemonicOf (decode ⟨BitVec.ofNat 8 w, 0⟩) = m).length) =
    [64, 1, 63, 1, 63, 1, 63] := by decide +kernel

/-- A pseudo-operation is written as its two commands (R70, the words of R62). -/
theorem test_encode_encrypt : encode (.encrypt ⟨16, 1⟩ ⟨32, 2⟩) = [⟨0x60, 2⟩, ⟨0x90, 1⟩] := by decide
theorem test_encode_decrypt : encode (.decrypt ⟨16, 1⟩ ⟨32, 2⟩) = [⟨0x60, 2⟩, ⟨0xD0, 1⟩] := by decide

/-- R69's own example. -/
theorem test_assemble_enc :
    assemble 0b10 [0, 1, 2, 3, 4, 5, 6, 7, 8, 9, 0x0A, 0x0B, 0x0C, 0x0D, 0x0E, 0x0F] =
      some ⟨0x90, 0x0F0E0D0C0B0A09080706050403020100⟩ := by decide +kernel

/-- Lines of program P3 and P4 as text (R69; the words are those of 95_test_vectors.md section 7). -/
theorem test_text_lines :
    eventsOfText ['E', 'N', 'C', ' ', ' ', ' ', '1', '0', '1', '1', '1', '2', '1', '3', '1', '4', ' ', ';', ' ', '5'] =
      some [.command ⟨0x85, 0x1413121110⟩] ∧
    eventsOfText ['R', 'E', 'S', 'E', 'T'] = some [.reset] ∧
    eventsOfText ['.', 'c', 'm', 'd', ' ', ' ', '0', 'x', '0', '0'] = some [.command ⟨0x00, 0⟩] ∧
    eventsOfText ['E', 'N', 'C', 'R', 'Y', 'P', 'T', ' ', '0', '1', ',', ' ', '0', 'A', '0', 'B'] =
      some [.command ⟨0x42, 0x0B0A⟩, .command ⟨0x81, 0x01⟩] ∧
    eventsOfText ['E', 'N', 'C', ' ', '1'] = none := by decide +kernel

/-- R69, R70: an empty block, an empty key, both, and an empty operand of `DEC` (a command of length 0); and lines that are
refused (log entry 16). -/
theorem test_text_empty_operands :
    eventsOfText ['E', 'N', 'C', 'R', 'Y', 'P', 'T', ' ', ',', ' ', '0', 'A'] =
      some [.command ⟨0x41, 0x0A⟩, .command ⟨0x80, 0⟩] ∧
    eventsOfText ['D', 'E', 'C', 'R', 'Y', 'P', 'T', ' ', '0', 'A', ','] =
      some [.command ⟨0x40, 0⟩, .command ⟨0xC1, 0x0A⟩] ∧
    eventsOfText ['D', 'E', 'C', 'R', 'Y', 'P', 'T', ' ', ','] =
      some [.command ⟨0x40, 0⟩, .command ⟨0xC0, 0⟩] ∧
    eventsOfText ['D', 'E', 'C'] = some [.command ⟨0xC0, 0⟩] ∧
    eventsOfText ['E', 'N', 'C', 'R', 'Y', 'P', 'T', ' ', '0', '1', ' ', '0', 'A'] = none ∧
    eventsOfText ['E', 'N', 'C', ' ', ',', '0', '1'] = none := by decide +kernel

/-! ### Primitive functions (95_test_vectors.md section 4, `x = 0xFEDC...3210`, `y = 0x0123...6677`) -/

theorem test_rotl32 : rotl32 0x80000001 11 = 0x00000C00 ∧ rotl32 PHI 11 = 0xBBCDCCF1 := by decide +kernel
theorem test_shat : shat 9 0xFEDCBA9876543210FEDCBA9876543210 = 0x43D68EB1A50972CF43D68EB1A50972CF := by decide +kernel
theorem test_shatInv : shatInv 7 0xFEDCBA9876543210FEDCBA9876543210 = 0x241A7BC58FE9D603241A7BC58FE9D603 := by
  decide +kernel
theorem test_ip : ip 0x0123456789ABCDEF0011223344556677 = 0x4100410C41C341CF4D304D3C4DF34DFF := by decide +kernel
theorem test_fp : fp 0x0123456789ABCDEF0011223344556677 = 0x00FF00000F0F00FF33330F0F55553333 := by decide +kernel
theorem test_lt : lt 0x0123456789ABCDEF0011223344556677 = 0xFB0EA4F416D3B17D6F084F1074A3296E := by decide +kernel
theorem test_ltInv : ltInv 0x0123456789ABCDEF0011223344556677 = 0xE8978F827851CFCD87CA747D2475AF47 := by decide +kernel
theorem test_ltw :
    ltw (0x01234567, 0x89ABCDEF, 0x00112233, 0x44556677) = (0xC17FE06E, 0xC31C78A7, 0x6614C389, 0xDDBB6780) := by
  decide +kernel
theorem test_ltwInv :
    ltwInv (0xC17FE06E, 0xC31C78A7, 0x6614C389, 0xDDBB6780) = (0x01234567, 0x89ABCDEF, 0x00112233, 0x44556677) := by
  decide +kernel
theorem test_scol :
    scol 3 (0x0000FFFF, 0x00FF00FF, 0x0F0F0F0F, 0x33333333) = (0x30C3FF0C, 0x03FCC30F, 0x3C0FC333, 0x3FC0CCC3) := by
  decide +kernel

/-! ### Key schedule (section 5, V3: the counting key; section 3: the zero key) -/

/-- The counting key of V3 as a number. -/
def countingKey : Key := 0x1F1E1D1C1B1A191817161514131211100F0E0D0C0B0A09080706050403020100

/-- The counting block of V3 as a number. -/
def countingBlock : Block := 0x0F0E0D0C0B0A09080706050403020100

theorem test_prekey_counting :
    [prekey countingKey 0, prekey countingKey 1, prekey countingKey 2, prekey countingKey 3] =
      [0x9BEDECD1, 0xA4C32856, 0xB28769CF, 0x4F45851A] := by decide +kernel
theorem test_roundKey_counting :
    roundKey countingKey 0 = 0x3D69127134F0F76E1930310A9304A659 ∧
    roundKey countingKey 32 = 0x2CDB73F9F8ED935EDB16229FA9B535ED := by decide +kernel
theorem test_preRound_zero : preRound 0 0 = 0x8ED77390F2D998EDA7E3A3CE6F5795D0 := by decide +kernel

/-! ### One command each -/

/-- A state without a fault whose round keys are the schedule of a key. -/
def loaded (key : Key) : State := loadRoundKeys (keySchedule key) State.reset

/-- A state without a fault whose round keys are 33 zeros: enough where the result does not matter. -/
def keyed : State := loadRoundKeys (Vector.replicate 33 0) State.reset

/-- The part of a step's answer a test looks at: last response, `STATUS`. -/
def seen : Result → Option (Option Response × BitVec 4)
  | .next t => some (t.responses.getLast?, status t)
  | .fault _ => none
  | .refused _ => none

/-- The `DOUT` output after a step. -/
def doutAfter : Result → Option Block
  | .next t => doutOutput t
  | .fault _ => none
  | .refused _ => none

/-- F1. -/
theorem test_ldkey : seen (exec (.ldkey 0) State.reset) = some (some ⟨.noFault, none⟩, 0b0001) := by decide +kernel

/-- V3, `ENC` of the counting block under the counting key. -/
theorem test_enc : doutAfter (exec (.enc (countingBlock.setWidth 256)) (loaded countingKey)) =
    some 0x5CE71C70D2882E5BB832E433F89F26DE := by decide +kernel

/-- V3, `DEC` of the counting block under the counting key. -/
theorem test_dec : doutAfter (exec (.dec (countingBlock.setWidth 256)) (loaded countingKey)) =
    some 0x624C8EF2AE8060056D9F7D3DDEB065B7 := by decide +kernel

/-- F10 and F11. -/
theorem test_enc_without_key : seen (exec (.enc 0) State.reset) = some (some ⟨.keyNotLoaded, none⟩, 0b1000) := by
  decide +kernel
theorem test_dec_without_key : seen (exec (.dec 0) State.reset) = some (some ⟨.keyNotLoaded, none⟩, 0b1000) := by
  decide +kernel

/-- F7, F12 and F5. -/
theorem test_ldkeyBadlen : seen (exec (.ldkeyBadlen ⟨31, 0⟩) State.reset) = some (some ⟨.invalidLength, none⟩, 0b0100) := by
  decide +kernel
theorem test_encBadlen_without_key :
    seen (exec (.encBadlen ⟨15, 0⟩) State.reset) = some (some ⟨.invalidLength, none⟩, 0b0100) := by decide +kernel
theorem test_decBadlen : seen (exec (.decBadlen ⟨0, 0⟩) keyed) = some (some ⟨.invalidLength, none⟩, 0b0101) := by
  decide +kernel

/-- F14. -/
theorem test_reserved : seen (exec (.reserved ⟨63, 0⟩) keyed) = some (some ⟨.illegalOp, none⟩, 0b1101) := by
  decide +kernel

/-- F15: a well-formed `LDKEY` in the faulted state is answered with the stored code and loads nothing. -/
theorem test_ldkey_faulted :
    seen (exec (.ldkey 0) { State.reset with fault := .keyNotLoaded }) = some (some ⟨.keyNotLoaded, none⟩, 0b1000) := by
  decide +kernel

/-- F17: an illegal word in the faulted state keeps the stored code. -/
theorem test_reserved_faulted :
    seen (exec (.reserved ⟨0, 0⟩) { keyed with fault := .invalidLength }) = some (some ⟨.invalidLength, none⟩, 0b0101) := by
  decide +kernel

/-- F18, its first half: `RESET` in the faulted state. -/
theorem test_reset_event :
    step { keyed with fault := .invalidLength, port := [.reset] } = .next State.reset := rfl

/-- R70: with both lengths wrong the key's fault is reported, and the second command is rejected with the same code. -/
theorem test_encrypt_both_lengths_wrong :
    seen (exec (.encrypt ⟨15, 0⟩ ⟨31, 0⟩) State.reset) = some (some ⟨.invalidLength, none⟩, 0b0100) := by decide +kernel

/-- R70 with P4's short block: the key is loaded, the block refused. -/
theorem test_decrypt_short_block :
    seen (exec (.decrypt ⟨5, 0⟩ ⟨32, 0⟩) State.reset) = some (some ⟨.invalidLength, none⟩, 0b0101) := by decide +kernel

/-- The bits of a table row are fetched and run as the first instruction after reset (F1, F10, F13). -/
theorem test_first_instruction :
    seen (step (State.reset.withFetchWord 8 0x60)) = some (some ⟨.noFault, none⟩, 0b0001) ∧
    seen (step (State.reset.withFetchWord 8 0x90)) = some (some ⟨.keyNotLoaded, none⟩, 0b1000) ∧
    seen (step (State.reset.withFetchWord 8 0x00)) = some (some ⟨.illegalOp, none⟩, 0b1100) := by decide +kernel

/-- Scenario B of the source: the keys and offsets of the password `abc` (95_test_vectors.md section 1). -/
theorem test_envelope :
    envelopeKey [0x61, 0x62, 0x63] 0 = some
      [0x61, 0x62, 0x63, 0x61, 0x62, 0x63, 0x61, 0x62, 0x63, 0x61, 0x62, 0x63, 0x61, 0x62, 0x63, 0x61,
       0x62, 0x63, 0x61, 0x62, 0x63, 0x61, 0x62, 0x63, 0x61, 0x62, 0x63, 0x61, 0x62, 0x63, 0x61, 0x62] ∧
    [blockOffset 3 0, blockOffset 3 1, blockOffset 3 2, blockOffset 3 3] = [0, 2, 1, 0] := by decide +kernel

/-! ### Witnesses: a state and operands that meet the hypotheses of each statement that has some -/

theorem witness_StepRunsDecodedCommand :
    (State.reset.withFetchWord 8 0x60).port = .command ⟨0x60, 0⟩ :: [] := by decide
theorem witness_ResetEventGivesResetState : (present .reset keyed).port = .reset :: [] := rfl
theorem witness_ResetOverCommandAbandonsIt :
    (present (.resetOver ⟨0x90, 0⟩) keyed).port = .resetOver ⟨0x90, 0⟩ :: [] := rfl
theorem witness_IdleCoreKeepsItsState : keyed.port = [] := rfl

/-- The premise of `CommandDispatchOrder` with a key and without one; its clauses are met by the words of F13 (`op` 0), F7
(wrong key length), F1, F3 (wrong block length), F10 (no key), F2 (done), and F17 (already faulted). -/
theorem witness_CommandDispatchOrder :
    (keyed.keyValid = true → keyed.rk = some (Vector.replicate 33 0)) ∧
    (State.reset.keyValid = true → State.reset.rk = some (Vector.replicate 33 0)) ∧
    ({ keyed with fault := .invalidLength } : State).fault ≠ .noFault ∧
    opOf 0x00 = 0b00 ∧ opOf 0x5F = 0b01 ∧ lenOf 0x5F ≠ 32 ∧ opOf 0x60 = 0b01 ∧ lenOf 0x60 = 32 ∧
    opOf 0x8F = 0b10 ∧ lenOf 0x8F ≠ 16 ∧ opOf 0x90 = 0b10 ∧ lenOf 0x90 = 16 ∧ State.reset.keyValid = false ∧
    keyed.keyValid = true ∧ opOf 0xD0 = 0b11 := by
  refine ⟨fun _ => rfl, fun h => (Bool.false_ne_true h).elim, ?_⟩
  decide

/-- `.illegalOp` is stored and an `ENC` comes. -/
theorem witness_FaultedCoreRejectsEverything : ({ keyed with fault := .illegalOp } : State).fault ≠ .noFault := by decide

theorem witness_FaultEntryIsPrecise :
    ∃ t, State.reset.fault = .noFault ∧ exec (decode ⟨0x8F, 0⟩) State.reset = .next t ∧ t.fault ≠ .noFault :=
  ⟨_, rfl, rfl, by decide⟩

/-- With a key; the causes are met by `0x5F`, `0x8F`, `0x90` without a key and `0x00` (F7, F3, F10, F13). -/
theorem witness_FaultCausesAreExact :
    keyed.fault = .noFault ∧ (keyed.keyValid = true → keyed.rk.isSome) ∧
    State.reset.fault = .noFault ∧ (State.reset.keyValid = true → State.reset.rk.isSome) ∧
    State.reset.keyValid = false := ⟨rfl, fun _ => rfl, rfl, fun h => (Bool.false_ne_true h).elim, rfl⟩

/-- Both kinds of reset leave the faulted state. -/
theorem witness_OnlyResetLeavesFaultedState :
    (∃ t, step (present .reset { keyed with fault := .illegalOp }) = .next t ∧
      (present .reset { keyed with fault := .illegalOp }).fault ≠ .noFault ∧ t.fault ≠ .illegalOp) ∧
    (∃ t, step (present (.resetOver ⟨0x90, 0⟩) { keyed with fault := .illegalOp }) = .next t ∧ t.fault ≠ .illegalOp) :=
  ⟨⟨_, rfl, by decide, by decide⟩, _, rfl, by decide⟩

theorem witness_CipherWithoutKeyTraps : State.reset.fault = .noFault ∧ State.reset.keyValid = false := ⟨rfl, rfl⟩
theorem witness_RoundKeysWithoutValueStop :
    ({ State.reset with keyValid := true } : State).fault = .noFault ∧
    ({ State.reset with keyValid := true } : State).keyValid = true ∧
    ({ State.reset with keyValid := true } : State).rk = none := ⟨rfl, rfl, rfl⟩
theorem witness_LdkeyLoadsKeySchedule : State.reset.fault = .noFault := rfl

/-- For `EncStoresEncryptedBlock`, `DecStoresDecryptedBlock` and `CipherCommandsUndoEachOther`. -/
theorem witness_keyed_state :
    keyed.fault = .noFault ∧ keyed.keyValid = true ∧ keyed.rk = some (Vector.replicate 33 0) := ⟨rfl, rfl, rfl⟩

/-- Each clause of `WrongLengthFormsFault`, at lengths next to the right one. -/
theorem witness_WrongLengthFormsFault :
    State.reset.fault = .noFault ∧ (31 : BitVec 6) ≠ 32 ∧ (33 : BitVec 6) ≠ 32 ∧ (15 : BitVec 6) ≠ 16 ∧
    (17 : BitVec 6) ≠ 16 := by decide
theorem witness_ReservedWordsAreIllegal : keyed.fault = .noFault := rfl
theorem witness_PseudoOperationsComplete :
    State.reset.fault = .noFault ∧ (⟨32, 7⟩ : Operand).len = 32 ∧ (⟨16, 9⟩ : Operand).len = 16 := ⟨rfl, rfl, rfl⟩

/-- Each clause of `PseudoOperationsWrongLengths`. -/
theorem witness_PseudoOperationsWrongLengths :
    State.reset.fault = .noFault ∧ (⟨31, 0⟩ : Operand).len ≠ 32 ∧ (⟨32, 0⟩ : Operand).len = 32 ∧
    (⟨15, 0⟩ : Operand).len ≠ 16 := by decide
theorem witness_InstructionIsItsCommands : (Instr.encrypt ⟨16, 0⟩ ⟨32, 0⟩).wellFormed = true := rfl

/-- A rejected and an accepted `LDKEY`. -/
theorem witness_LdkeyFrame :
    (∃ t, exec (.ldkey 0) { keyed with fault := .illegalOp } = .next t) ∧ (∃ t, exec (.ldkey 0) State.reset = .next t) :=
  ⟨⟨_, rfl⟩, _, rfl⟩

/-- `ENC` and `DEC` with a key, without one, and rejected. -/
theorem witness_CipherFrame :
    (∃ t, exec (.enc 0) keyed = .next t ∧ keyed.keyValid = true) ∧
    (∃ t, exec (.dec 0) State.reset = .next t ∧ State.reset.keyValid = false) ∧
    (∃ t, exec (.dec 0) { keyed with fault := .illegalOp } = .next t) := ⟨⟨_, rfl, rfl⟩, ⟨_, rfl, rfl⟩, _, rfl⟩

theorem witness_FaultingFormsFrame :
    (∃ t, exec (.ldkeyBadlen ⟨33, 0⟩) keyed = .next t ∧ (Instr.ldkeyBadlen ⟨33, 0⟩).wellFormed = true) ∧
    (∃ t, exec (.encBadlen ⟨17, 0⟩) { keyed with fault := .illegalOp } = .next t ∧
      (Instr.encBadlen ⟨17, 0⟩).wellFormed = true) ∧
    (∃ t, exec (.reserved ⟨0, 0⟩) keyed = .next t) := ⟨⟨_, rfl, rfl⟩, ⟨_, rfl, rfl⟩, _, rfl⟩

/-- Completed, faulting in the first and in the second command, and rejected. -/
theorem witness_PseudoOperationsFrame :
    (∃ t, exec (.encrypt ⟨16, 0⟩ ⟨32, 0⟩) State.reset = .next t) ∧
    (∃ t, exec (.decrypt ⟨16, 0⟩ ⟨31, 0⟩) State.reset = .next t ∧ t.fault ≠ .noFault) ∧
    (∃ t, exec (.decrypt ⟨15, 0⟩ ⟨32, 0⟩) State.reset = .next t ∧ t.fault ≠ .noFault) ∧
    (∃ t, exec (.encrypt ⟨16, 0⟩ ⟨32, 0⟩) { State.reset with fault := .illegalOp } = .next t) :=
  ⟨⟨_, rfl⟩, ⟨_, rfl, by decide⟩, ⟨_, rfl, by decide⟩, _, rfl⟩

/-- Steps that write the round keys (`LDKEY`, a reset), the result register (`ENC`), and neither. -/
theorem witness_OnlyTheirCommandsWriteRegisters :
    (∃ t, step (State.reset.withFetchWord 8 0x60) = .next t ∧ t.keyValid = true) ∧
    (∃ t, step (keyed.withFetchWord 8 0x90) = .next t ∧ t.outValid = true) ∧
    (∃ t, step (present .reset keyed) = .next t ∧ t.rk = none) ∧ (∃ t, step keyed = .next t ∧ t.rk = keyed.rk) :=
  ⟨⟨_, rfl, rfl⟩, ⟨_, rfl, rfl⟩, ⟨_, rfl, rfl⟩, _, rfl, rfl⟩

/-- A loaded state keeps the invariant and has a next state, for `InvariantKeptByEveryStep` and `EveryCommandIsAnswered`. -/
theorem witness_invariant_of_loaded_state :
    Inv ((loaded 0).withFetchWord 8 0x90) ∧ ∃ t, step ((loaded 0).withFetchWord 8 0x90) = .next t := by
  refine ⟨⟨rfl, ?_, rfl, ?_⟩, _, rfl⟩
  · intro ks h
    exact ⟨0, (Option.some.inj h).symm⟩
  · intro r h
    cases h

theorem witness_GoodEndMeansEveryResponseOk :
    ∃ t, (State.reset.withFetchWord 8 0x60).fault = .noFault ∧ (State.reset.withFetchWord 8 0x60).responses = [] ∧
      (∀ e ∈ (State.reset.withFetchWord 8 0x60).port, ∃ c, e = Event.command c) ∧
      Host.Core.run Sys2Proof.core 1 (State.reset.withFetchWord 8 0x60) = .next t := by
  refine ⟨_, rfl, rfl, ?_, rfl⟩
  intro e h
  exact ⟨⟨0x60, 0⟩, List.mem_singleton.mp h⟩

/-- Both sides of the premise: no fault with no response, and a fault with its response. -/
theorem witness_NoFaultIffResponsesOkKept :
    (∃ t, (goodEnd (keyed.withFetchWord 8 0x90) ↔ ∀ r ∈ (keyed.withFetchWord 8 0x90).responses, r.rstat = .noFault) ∧
      step (keyed.withFetchWord 8 0x90) = .next t) ∧
    ∃ s t, s.port = [.command ⟨0x60, 0⟩] ∧ ¬ goodEnd s ∧ (goodEnd s ↔ ∀ r ∈ s.responses, r.rstat = .noFault) ∧
      step s = .next t := by
  refine ⟨⟨_, ⟨fun _ r h => absurd h List.not_mem_nil, fun _ => rfl⟩, rfl⟩,
    { keyed with fault := .illegalOp, responses := [⟨.illegalOp, none⟩], port := [.command ⟨0x60, 0⟩] }, _, rfl,
    FaultCode.noConfusion, ⟨fun h => FaultCode.noConfusion h, fun h => ?_⟩, rfl⟩
  exact h ⟨.illegalOp, none⟩ (List.mem_singleton.mpr rfl)

/-- Two values of `DIN` with the same low half, and a command that faults. -/
theorem witness_IgnoredLanesHaveNoEffect :
    ((0 : Lanes).extractLsb' 0 128 = (0x100000000000000000000000000000000 : Lanes).extractLsb' 0 128) ∧
    ∃ t, exec (decode ⟨0x8F, 0⟩) keyed = .next t ∧ t.fault ≠ .noFault := ⟨by decide, _, rfl, by decide⟩

/-- Each kind of command that is no `ENC` or `DEC` of 16 bytes. -/
theorem witness_RoundKeysAreNotObservable :
    ¬ ((opOf 0x60 = 0b10 ∨ opOf 0x60 = 0b11) ∧ lenOf 0x60 = 16) ∧
    ¬ ((opOf 0x8F = 0b10 ∨ opOf 0x8F = 0b11) ∧ lenOf 0x8F = 16) ∧
    ¬ ((opOf 0x00 = 0b10 ∨ opOf 0x00 = 0b11) ∧ lenOf 0x00 = 16) := by decide
theorem witness_DecodeOfEncode :
    (Instr.encBadlen ⟨15, 7⟩).wellFormed = true ∧ (Instr.encBadlen ⟨15, 7⟩).isPseudo = false := ⟨rfl, rfl⟩

/-- Both clauses, at 63 and 64 bytes. -/
theorem witness_AssemblerPlacesBytes :
    (List.replicate 63 (1 : Byte)).length ≤ 63 ∧ 63 < (List.replicate 64 (1 : Byte)).length := by decide
theorem witness_BytesAndBitsAgree :
    8 * [(1 : Byte), 2].length ≤ 16 ∧ 1 < [(1 : Byte), 2].length ∧ (List.replicate 16 (1 : Byte)).length = 16 := by decide
theorem witness_ViewsOfABlockAgree : (31 : Nat) < 32 ∧ (15 : Nat) < 16 := by decide
/-- Right lengths, a wrong block, a wrong key, and the shortest and longest byte strings. -/
theorem witness_PseudoOperationsMeetContract :
    (operandOfBytes (List.replicate 16 1)).isSome = true ∧ (operandOfBytes (List.replicate 32 2)).isSome = true ∧
    (operandOfBytes (List.replicate 15 1)).isSome = true ∧ (operandOfBytes (List.replicate 31 2)).isSome = true ∧
    (operandOfBytes []).isSome = true ∧ (operandOfBytes (List.replicate 63 2)).isSome = true ∧
    State.reset.fault = .noFault := by decide +kernel

/-- Right lengths and wrong ones. -/
theorem witness_ContractOfTheSource :
    (List.replicate 16 (1 : Byte)).length = 16 ∧ (List.replicate 32 (1 : Byte)).length = 32 ∧
    ¬ ((List.replicate 15 (1 : Byte)).length = 16 ∧ (List.replicate 32 (1 : Byte)).length = 32) := by decide
theorem witness_RotationMovesEveryBit : (0 : Nat) < 32 ∧ (31 : Nat) < 32 := by decide
theorem witness_SboxesArePermutations : (0 : Nat) < 8 ∧ (7 : Nat) < 8 ∧ (0 : Nat) ≠ 7 := by decide

/-- For the bounds of `PermutationsMoveBits`, `SboxLayersActOnNibbles`, `ColumnSboxIsTheLayer`, `PrekeyRecurrence`,
`KeyBoxSequence` and `RoundKeyForms`, each at its last value. -/
theorem witness_index_bounds :
    (126 : Nat) < 127 ∧ (3 : Nat) < 4 ∧ (31 : Nat) < 32 ∧ (7 : Nat) < 8 ∧ (131 : Nat) ≤ 131 ∧ (32 : Nat) ≤ 32 ∧
    (32 : Nat) < 33 := by decide

/-- The premises are met by one and the same key; the statement says that they are met by no two. -/
theorem witness_TwoRoundKeysDetermineTheKey :
    roundKey countingKey 0 = roundKey countingKey 0 ∧ roundKey countingKey 1 = roundKey countingKey 1 := ⟨rfl, rfl⟩
theorem witness_EnvelopeKeysAndOffsets : [(0 : Byte)] ≠ [] ∧ 1 ≤ [(0 : Byte)].length := by decide

end Sys2Proof.Tests
end

section
/-! SUPPORT. The views of a value as bits, nibbles, bytes and words, and byte strings as bit vectors (spec 00_scope.md R8, R11;
20_memory.md R42). -/

namespace Sys2Proof.Machine

/-! ### A value is determined by its chunks -/

/-- Two values that agree on every chunk of `c` bits are equal. -/
theorem eq_of_chunks {n : Nat} (c : Nat) (hc : 0 < c) {v w : BitVec n}
    (h : ∀ j, c * j < n → v.extractLsb' (c * j) c = w.extractLsb' (c * j) c) : v = w := by
  apply BitVec.eq_of_getLsbD_eq
  intro i hi
  have hpos : c * (i / c) + i % c = i := Nat.div_add_mod i c
  have hbit := congrArg (fun x : BitVec c => x.getLsbD (i % c)) (h (i / c) (by omega))
  simpa [BitVec.getLsbD_extractLsb', Nat.mod_lt i hc, hpos] using hbit

theorem eq_of_nib {n : Nat} {v w : BitVec n} (h : ∀ j, 4 * j < n → nib v j = nib w j) : v = w :=
  eq_of_chunks 4 (by decide) h

theorem eq_of_byte {n : Nat} {v w : BitVec n} (h : ∀ j, 8 * j < n → byte v j = byte w j) : v = w :=
  eq_of_chunks 8 (by decide) h

/-! ### The views of a block -/

/-- R8: bit `i` of `words4` comes from word `i / 32`, which in `wordsOf v` holds bit `i` of `v`. -/
@[simp] theorem words4_wordsOf (v : Block) : words4 (wordsOf v) = v := by
  apply BitVec.eq_of_getLsbD_eq
  intro i hi
  simp only [words4, wordsOf, BitVec.getLsbD_append, getLsbD_word]
  split_ifs <;> grind

/-- R42: eight nibbles make a word. -/
theorem nib_word {n : Nat} (v : BitVec n) (j : Nat) : nib (word v (j / 8)) (j % 8) = nib v j := by
  apply BitVec.eq_of_getLsbD_eq
  intro l hl
  have hpos : 32 * (j / 8) + (4 * (j % 8) + l) = 4 * j + l := by omega
  have hin : 4 * (j % 8) + l < 32 := by omega
  rw [getLsbD_nib, getLsbD_nib, getLsbD_word, hpos]
  simp [hin]

/-- R42: two nibbles make a byte, the even one the lower. -/
theorem byte_eq_nibs {n : Nat} (v : BitVec n) (j : Nat) : byte v j = nib v (2 * j + 1) ++ nib v (2 * j) := by
  apply BitVec.eq_of_getLsbD_eq
  intro l hl
  rw [getLsbD_byte, BitVec.getLsbD_append, getLsbD_nib, getLsbD_nib]
  split
  · next hlow =>
    have hpos : 4 * (2 * j) + l = 8 * j + l := by omega
    simp [hl, hlow, hpos]
  · have hpos : 4 * (2 * j + 1) + (l - 4) = 8 * j + l := by omega
    have hin : l - 4 < 4 := by omega
    simp [hl, hin, hpos]

/-- Settles O40: words by their chunks, nibbles and bytes bit by bit. -/
theorem viewsOfABlockAgree : Obligations.ViewsOfABlockAgree :=
  fun v => ⟨words4_wordsOf v, fun j _ => (nib_word v j).symm, fun j _ => byte_eq_nibs v j⟩

/-! ### Byte strings -/

/-- Byte `i / 8` of the string gives bit `i` of its number, and past the end there are zeros. -/
theorem testBit_bytesToNat (bs : List Byte) (i : Nat) :
    (bytesToNat bs).testBit i = (bs.getD (i / 8) 0).getLsbD (i % 8) := by
  induction bs generalizing i with
  | nil => simp [bytesToNat]
  | cons b bs ih =>
    have hsum : bytesToNat (b :: bs) = 2 ^ 8 * bytesToNat bs + b.toNat := Nat.add_comm _ _
    rw [hsum, Nat.testBit_two_pow_mul_add _ b.isLt]
    split
    · next hi =>
      have hd : i / 8 = 0 := by omega
      have hm : i % 8 = i := by omega
      simp [hd, hm, BitVec.getLsbD]
    · have hd : i / 8 = (i - 8) / 8 + 1 := by omega
      have hm : i % 8 = (i - 8) % 8 := by omega
      rw [ih, hd, hm, List.getD_cons_succ]

theorem getLsbD_bytesToBits (n : Nat) (bs : List Byte) {i : Nat} (hi : i < n) :
    (bytesToBits n bs).getLsbD i = (bs.getD (i / 8) 0).getLsbD (i % 8) := by
  rw [bytesToBits, BitVec.getLsbD_ofNat, testBit_bytesToNat]
  simp only [hi, decide_true, Bool.true_and]

/-- R11: every byte that fits into the value is the byte of the string, and 0 past its end. -/
theorem byte_bytesToBits {n : Nat} (bs : List Byte) {j : Nat} (hj : 8 * j + 8 ≤ n) :
    byte (bytesToBits n bs) j = bs.getD j 0 := by
  apply BitVec.eq_of_getLsbD_eq
  intro l hl
  have hd : (8 * j + l) / 8 = j := by omega
  have hm : (8 * j + l) % 8 = l := by omega
  rw [getLsbD_byte, getLsbD_bytesToBits n bs (by omega), hd, hm]
  simp [hl]

@[simp] theorem length_bitsToBytes (v : Block) : (bitsToBytes v).length = 16 := by simp [bitsToBytes]

theorem getD_bitsToBytes (v : Block) {j : Nat} (hj : j < 16) : (bitsToBytes v).getD j 0 = byte v j := by
  simp [bitsToBytes, hj]

@[simp] theorem bytesToBits_bitsToBytes (v : Block) : bytesToBits 128 (bitsToBytes v) = v := by
  apply eq_of_byte
  intro j hj
  rw [byte_bytesToBits _ (by omega), getD_bitsToBytes v (by omega)]

theorem bitsToBytes_bytesToBits {bs : List Byte} (h : bs.length = 16) : bitsToBytes (bytesToBits 128 bs) = bs := by
  apply List.ext_getElem
  · simp [h]
  · intro j hj hj'
    have hbyte : byte (bytesToBits 128 bs) j = bs.getD j 0 := byte_bytesToBits bs (by omega)
    simpa [bitsToBytes, hj'] using hbyte

/-- Settles O39: the number of a byte string has the bits of its bytes, so each byte is read back, and bytes determine a value. -/
theorem bytesAndBitsAgree : Obligations.BytesAndBitsAgree := by
  refine ⟨fun n bs hn j h => ?_, fun _ h => bitsToBytes_bytesToBits h,
    fun v => ⟨length_bitsToBytes v, bytesToBits_bitsToBytes v⟩⟩
  rw [byte_bytesToBits bs (by omega), List.getD_eq_getElem _ _ h]

end Sys2Proof.Machine
end

section
/-! SUPPORT. What undoes what: the S-box layers, the permutations, the linear transform, and from them decryption after encryption
(spec 40_tables_and_primitives.md R86 to R93, 43_decrypt.md R151 to R155). -/

namespace Sys2Proof.Machine

/-! ### The S-box layers -/

/-- The box is taken modulo 8, so eight boxes are all there are to compare. -/
theorem sboxInv_sbox (b : Nat) (x : Nibble) : sboxInv b (sbox b x) = x := by
  have hrows : ∀ (r : Fin 8) (y : Nibble), SBOXINV[r][(SBOX[r][y.toNat]'y.isLt).toNat]'(BitVec.isLt _) = y := by decide
  exact hrows ⟨b % 8, Nat.mod_lt b (by decide)⟩ x

@[simp] theorem shatInv_shat (b : Nat) (v : Block) : shatInv b (shat b v) = v := by
  apply eq_of_nib
  intro j hj
  rw [shatInv, nib_ofNibbles _ (by omega), shat, nib_ofNibbles _ (by omega), sboxInv_sbox]

/-! ### The permutations -/

/-- One table undoes another where following the second from every position and then the first leads back to it. -/
theorem permute_permute {T U : Vector (Vector Nat 16) 8}
    (h : ∀ i : Fin 128, ∃ hlt : entry U i < 128, entry T ⟨entry U i, hlt⟩ = i) (v : Block) :
    permute U (permute T v) = v := by
  apply BitVec.eq_of_getLsbD_eq
  intro i hi
  obtain ⟨hlt, hback⟩ := h ⟨i, hi⟩
  calc (permute U (permute T v)).getLsbD i
      = (permute T v).getLsbD (entry U ⟨i, hi⟩) := getLsbD_permute U _ ⟨i, hi⟩
    _ = v.getLsbD (entry T ⟨entry U ⟨i, hi⟩, hlt⟩) := getLsbD_permute T v ⟨_, hlt⟩
    _ = v.getLsbD i := by rw [hback]

@[simp] theorem fp_ip (v : Block) : fp (ip v) = v := permute_permute (by decide +kernel) v

@[simp] theorem ip_fp (v : Block) : ip (fp v) = v := permute_permute (by decide +kernel) v

/-! ### The linear transform: taps that meet twice cancel -/

/-- Put one more tap on a list: the same tap a second time takes both away. -/
def toggleTap (t : Nat) (taps : List Nat) : List Nat := if t ∈ taps then taps.erase t else t :: taps

/-- The list without the taps that cancel. -/
def cancelTaps (taps : List Nat) : List Nat := taps.foldr toggleTap []

/-- The taps in `v` of a parity over `taps` that is taken in `tapMap table v`. -/
def tapsThrough (table : Vector (Vector (List Nat) 16) 8) (taps : List Nat) : List Nat :=
  taps.flatMap fun t => entry table (Fin.ofNat 128 t)

theorem parity_append (v : Block) (s t : List Nat) : parity v (s ++ t) = (parity v s ^^ parity v t) := by
  induction s with
  | nil => simp
  | cons a s ih => simp [ih]

theorem parity_perm (v : Block) {s t : List Nat} (h : s.Perm t) : parity v s = parity v t := by
  induction h with
  | nil => rfl
  | cons a _ ih => simp [ih]
  | swap a b s => simp [Bool.xor_left_comm]
  | trans _ _ ih₁ ih₂ => exact ih₁.trans ih₂

theorem parity_toggleTap (v : Block) (t : Nat) (taps : List Nat) :
    parity v (toggleTap t taps) = (v.getLsbD t ^^ parity v taps) := by
  by_cases ht : t ∈ taps
  · rw [toggleTap, if_pos ht, parity_perm v (List.perm_cons_erase ht), parity_cons, ← Bool.xor_assoc, Bool.xor_self,
      Bool.false_xor]
  · rw [toggleTap, if_neg ht, parity_cons]

theorem parity_cancelTaps (v : Block) (taps : List Nat) : parity v (cancelTaps taps) = parity v taps := by
  induction taps with
  | nil => rfl
  | cons t taps ih =>
    have hstep : cancelTaps (t :: taps) = toggleTap t (cancelTaps taps) := rfl
    rw [hstep, parity_toggleTap, ih, parity_cons]

theorem parity_tapMap (table : Vector (Vector (List Nat) 16) 8) (v : Block) {taps : List Nat} (h : ∀ t ∈ taps, t < 128) :
    parity (tapMap table v) taps = parity v (tapsThrough table taps) := by
  induction taps with
  | nil => rfl
  | cons t taps ih =>
    obtain ⟨ht, htaps⟩ := List.forall_mem_cons.mp h
    have hbit : (tapMap table v).getLsbD t = parity v (entry table (Fin.ofNat 128 t)) := by
      rw [← getLsbD_tapMap, Fin.val_ofNat, Nat.mod_eq_of_lt ht]
    have hsplit : tapsThrough table (t :: taps) = entry table (Fin.ofNat 128 t) ++ tapsThrough table taps := List.flatMap_cons
    rw [parity_cons, hbit, ih htaps, hsplit, parity_append]

/-- One table of tap lists undoes another where the taps of each output bit, taken through both, cancel down to that bit. -/
theorem tapMap_tapMap {T U : Vector (Vector (List Nat) 16) 8}
    (h : ∀ i : Fin 128, (∀ t ∈ entry U i, t < 128) ∧ cancelTaps (tapsThrough T (entry U i)) = [i.val]) (v : Block) :
    tapMap U (tapMap T v) = v := by
  apply BitVec.eq_of_getLsbD_eq
  intro i hi
  obtain ⟨hlt, hcancel⟩ := h ⟨i, hi⟩
  calc (tapMap U (tapMap T v)).getLsbD i
      = parity (tapMap T v) (entry U ⟨i, hi⟩) := getLsbD_tapMap U _ ⟨i, hi⟩
    _ = parity v (tapsThrough T (entry U ⟨i, hi⟩)) := parity_tapMap T v hlt
    _ = parity v [i] := by rw [← parity_cancelTaps, hcancel]
    _ = v.getLsbD i := by simp

@[simp] theorem ltInv_lt (v : Block) : ltInv (lt v) = v := tapMap_tapMap (by decide +kernel) v

/-! ### The rounds and the cipher -/

@[simp] theorem decRound_encRound (ks : RoundKeys) (r : Nat) (b : Block) : decRound ks r (encRound ks r b) = b := by
  simp [decRound, encRound]

@[simp] theorem undoLastRound_lastRound (ks : RoundKeys) (b : Block) : undoLastRound ks (lastRound ks b) = b := by
  simp [undoLastRound, lastRound]

/-- The rounds are undone from the last to the first, down to the initial permutation. -/
theorem undoRounds_bhat (ks : RoundKeys) (p : Block) (n : Nat) : undoRounds ks n (bhat ks p n) = ip p := by
  induction n with
  | zero => rfl
  | succ n ih => rw [undoRounds_succ, bhat_succ, decRound_encRound, ih]

/-- R155, for any 33 round keys whatever. -/
@[simp] theorem decryptBlock_encryptBlock (ks : RoundKeys) (p : Block) : decryptBlock ks (encryptBlock ks p) = p := by
  rw [decryptBlock, encryptBlock, ip_fp, undoLastRound_lastRound, undoRounds_bhat, fp_ip]

end Sys2Proof.Machine
end

section
/-! SUPPORT. The contract of the source on byte strings (spec 00_scope.md R3), and the two pseudo-operations that answer it
(20_memory.md R41, 30_encoding.md R69, R70). -/

namespace Sys2Proof.Machine

/-! ### The contract -/

theorem contractOf_of_lengths (cipher : RoundKeys → Block → Block) {block key : List Byte} (hb : block.length = 16)
    (hk : key.length = 32) :
    contractOf cipher block key =
      .bytes (bitsToBytes (cipher (keySchedule (bytesToBits 256 key)) (bytesToBits 128 block))) := if_pos ⟨hk, hb⟩

theorem contractOf_of_wrong_length (cipher : RoundKeys → Block → Block) {block key : List Byte}
    (h : ¬ (block.length = 16 ∧ key.length = 32)) : contractOf cipher block key = .invalidLength :=
  if_neg fun hkb => h hkb.symm

/-- Settles O42: the ciphertext bytes are read back as the block they spell, and decryption undoes encryption of a block. -/
theorem contractOfTheSource : Obligations.ContractOfTheSource := by
  refine fun p k => ⟨fun hp hk => ?_, fun h => ⟨contractOf_of_wrong_length _ h, contractOf_of_wrong_length _ h⟩⟩
  refine ⟨_, contractOf_of_lengths encryptBlock hp hk, length_bitsToBytes _, ?_⟩
  rw [fefDecrypt, contractOf_of_lengths decryptBlock (length_bitsToBytes _) hk, bytesToBits_bitsToBytes,
    decryptBlock_encryptBlock, bitsToBytes_bytesToBits hp]

/-! ### Byte strings as operands -/

/-- R69: what an operand made of a byte string holds. -/
theorem operandOfBytes_eq_some {bs : List Byte} {o : Operand} (h : operandOfBytes bs = some o) :
    bs.length ≤ 63 ∧ o = ⟨BitVec.ofNat 6 bs.length, bytesToBits 256 (bs.take 32)⟩ := by
  unfold operandOfBytes at h
  split at h
  · next hlen => exact ⟨hlen, (Option.some.inj h).symm⟩
  · cases h

/-- No length is lost in the six bits of `len`. -/
theorem len_eq_iff_of_operandOfBytes {bs : List Byte} {o : Operand} (h : operandOfBytes bs = some o) (n : BitVec 6) :
    o.len = n ↔ bs.length = n.toNat := by
  obtain ⟨hlen, rfl⟩ := operandOfBytes_eq_some h
  rw [← BitVec.toNat_inj, BitVec.toNat_ofNat, Nat.mod_eq_of_lt (by omega)]

/-- A key of the right length stands on the lanes as R11 reads it. -/
theorem keyOperand_of_operandOfBytes {key : List Byte} {k : Operand} (h : operandOfBytes key = some k)
    (hlen : key.length = 32) : keyOperand k.lanes = bytesToBits 256 key := by
  obtain ⟨_, rfl⟩ := operandOfBytes_eq_some h
  rw [keyOperand, List.take_of_length_le hlen.le]

/-- A block of the right length stands on the lower half of the lanes as R11 reads it. -/
theorem blockOperand_of_operandOfBytes {block : List Byte} {b : Operand} (h : operandOfBytes block = some b)
    (hlen : block.length = 16) : blockOperand b.lanes = bytesToBits 128 block := by
  obtain ⟨_, rfl⟩ := operandOfBytes_eq_some h
  rw [List.take_of_length_le (by omega)]
  apply BitVec.eq_of_getLsbD_eq
  intro i hi
  rw [blockOperand, BitVec.getLsbD_extractLsb', Nat.zero_add, getLsbD_bytesToBits 256 block (by omega),
    getLsbD_bytesToBits 128 block hi, decide_eq_true hi, Bool.true_and]

/-! ### Two commands one after the other -/

/-- A cipher command where a key is loaded: only the length is left to decide. -/
theorem cipherCommand_of_loaded (cipher : RoundKeys → Block → Block) (o : Operand) {s : State} {ks : RoundKeys}
    (hf : s.fault = .noFault) (hv : s.keyValid = true) (hr : s.rk = some ks) :
    cipherCommand cipher o s =
      if o.len = Config.blockLen then
        .next (respond .noFault (some (cipher ks (blockOperand o.lanes))) (storeResult (cipher ks (blockOperand o.lanes)) s))
      else takeFault .invalidLength s := by
  rw [cipherCommand, unlessFaulted_of_noFault hf]
  by_cases hl : o.len = Config.blockLen
  · rw [if_neg (not_not.mpr hl), if_neg (by simp [hv]), withRoundKeys_some hr, if_pos hl]
  · rw [if_pos hl, if_neg hl]

theorem ldkeyCommand_of_keyLen {o : Operand} {s : State} (hf : s.fault = .noFault) (hl : o.len = Config.keyLen) :
    ldkeyCommand o s = .next (respond .noFault none (loadRoundKeys (keySchedule (keyOperand o.lanes)) s)) := by
  rw [ldkeyCommand, unlessFaulted_of_noFault hf, if_neg (not_not.mpr hl)]

theorem ldkeyCommand_of_keyLen_ne {o : Operand} {s : State} (hf : s.fault = .noFault) (hl : o.len ≠ Config.keyLen) :
    ldkeyCommand o s = .next (respond .invalidLength none { s with fault := .invalidLength }) := by
  rw [ldkeyCommand, unlessFaulted_of_noFault hf, if_pos hl, takeFault]

/-- R176: the command after one that faulted is rejected with the same code. -/
theorem cipherCommand_after_fault (cipher : RoundKeys → Block → Block) (o : Operand) {code : FaultCode} (hc : code ≠ .noFault)
    (s : State) :
    cipherCommand cipher o (respond code none { s with fault := code }) =
      .next (respond code none (respond code none { s with fault := code })) :=
  unlessFaulted_of_fault hc

/-- R47: the command after `LDKEY` finds the key loaded. -/
theorem cipherCommand_after_load (cipher : RoundKeys → Block → Block) (o : Operand) (ks : RoundKeys) {s : State}
    (hf : s.fault = .noFault) :
    cipherCommand cipher o (respond .noFault none (loadRoundKeys ks s)) =
      if o.len = Config.blockLen then
        .next (respond .noFault (some (cipher ks (blockOperand o.lanes)))
          (storeResult (cipher ks (blockOperand o.lanes)) (respond .noFault none (loadRoundKeys ks s))))
      else takeFault .invalidLength (respond .noFault none (loadRoundKeys ks s)) :=
  cipherCommand_of_loaded cipher o hf rfl rfl

/-- The response just given is the last one. -/
theorem getLast?_responses_respond (code : FaultCode) (data : Option Block) (s : State) :
    (respond code data s).responses.getLast? = some ⟨code, data⟩ := List.getLast?_concat

/-- The last response of `LDKEY` and a cipher command on two byte strings carries what the contract gives for them. -/
theorem loadThenCipher_carries (cipher : RoundKeys → Block → Block) {block key : List Byte} {b k : Operand} {s : State}
    (hb : operandOfBytes block = some b) (hk : operandOfBytes key = some k) (hf : s.fault = .noFault) :
    ∃ t r, andThen (ldkeyCommand k s) (cipherCommand cipher b) = .next t ∧ t.responses.getLast? = some r ∧
      carries r (contractOf cipher block key) := by
  have hkl : k.len = Config.keyLen ↔ key.length = 32 := len_eq_iff_of_operandOfBytes hk _
  have hbl : b.len = Config.blockLen ↔ block.length = 16 := len_eq_iff_of_operandOfBytes hb _
  by_cases hk32 : key.length = 32
  · rw [ldkeyCommand_of_keyLen hf (hkl.mpr hk32), andThen_next, cipherCommand_after_load cipher b _ hf]
    by_cases hb16 : block.length = 16
    · rw [if_pos (hbl.mpr hb16), keyOperand_of_operandOfBytes hk hk32, blockOperand_of_operandOfBytes hb hb16,
        contractOf_of_lengths cipher hb16 hk32]
      exact ⟨_, _, rfl, getLast?_responses_respond _ _ _, rfl, rfl⟩
    · rw [if_neg (mt hbl.mp hb16), contractOf_of_wrong_length cipher fun h => hb16 h.1]
      exact ⟨_, _, rfl, getLast?_responses_respond _ _ _, rfl⟩
  · rw [ldkeyCommand_of_keyLen_ne hf (mt hkl.mp hk32), andThen_next, cipherCommand_after_fault cipher b (by decide),
      contractOf_of_wrong_length cipher fun h => hk32 h.2]
    exact ⟨_, _, rfl, getLast?_responses_respond _ _ _, rfl⟩

/-- Settles O41: both pseudo-operations are `LDKEY` and then a cipher command. -/
theorem pseudoOperationsMeetContract : Obligations.PseudoOperationsMeetContract :=
  fun _ _ _ _ _ hb hk hf =>
    ⟨loadThenCipher_carries encryptBlock hb hk hf, loadThenCipher_carries decryptBlock hb hk hf⟩

end Sys2Proof.Machine
end

section
/-! SUPPORT. What one step can do, said once for every event (spec 30_encoding.md R65, 60_exceptions.md R191,
70_reset_and_hazards.md R200, R201). -/

namespace Sys2Proof.Machine

/-- What a step can do to a state: nothing, reset it, or finish the next command. -/
inductive StepEffect (s : State) : State → Prop
  | idle (hp : s.port = []) : StepEffect s s
  | reset (rest : List Event) (hp : s.port = .reset :: rest) : StepEffect s (resetCore { s with port := rest })
  | resetOver (c : Command) (rest : List Event) (hp : s.port = .resetOver c :: rest) :
      StepEffect s (resetCore { s with port := rest })
  | command (c : Command) (rest : List Event) (t : State) (hp : s.port = .command c :: rest)
      (he : CommandEffect c { s with port := rest } t) : StepEffect s t

theorem step_of_nil {s : State} (hp : s.port = []) : step s = .next s := by
  rw [step, nextEvent_nil hp]

theorem step_of_reset {s : State} {rest : List Event} (hp : s.port = .reset :: rest) :
    step s = .next (resetCore { s with port := rest }) := by
  rw [step, nextEvent_cons hp]

theorem step_of_resetOver {s : State} {c : Command} {rest : List Event} (hp : s.port = .resetOver c :: rest) :
    step s = .next (resetCore { s with port := rest }) := by
  rw [step, nextEvent_cons hp]

theorem step_of_command {s : State} {c : Command} {rest : List Event} (hp : s.port = .command c :: rest) :
    step s = exec (decode c) { s with port := rest } := by
  rw [step, nextEvent_cons hp]

/-- What a step left, in any state whatever, is one of the effects. -/
theorem step_next {s t : State} (h : step s = .next t) : StepEffect s t := by
  cases hp : s.port with
  | nil =>
    rw [step_of_nil hp] at h
    cases h
    exact .idle hp
  | cons e rest =>
    cases e with
    | reset =>
      rw [step_of_reset hp] at h
      cases h
      exact .reset rest hp
    | resetOver c =>
      rw [step_of_resetOver hp] at h
      cases h
      exact .resetOver c rest hp
    | command c =>
      rw [step_of_command hp] at h
      exact .command c rest t hp (exec_decode_next h)

end Sys2Proof.Machine
end

section
/-! SUPPORT. The invariant of the state: each update keeps it, so each step does (spec 10_state.md R20 to R23, R31; 30_encoding.md
R66). -/

namespace Sys2Proof.Machine

/-- Settles O25: no register holds a value, and no response has been given. -/
theorem invariantHoldsAtReset : Obligations.InvariantHoldsAtReset where
  keyValid_iff_rk := rfl
  rk_scheduled _ hks := by cases hks
  outValid_iff_dout := rfl
  data_only_if_ok _ hr := by cases hr

/-! ### The updates of the state -/

theorem Inv.after_take {s : State} (hs : Inv s) (rest : List Event) : Inv { s with port := rest } := { hs with }

theorem Inv.after_fault {s : State} (hs : Inv s) (code : FaultCode) : Inv { s with fault := code } := { hs with }

/-- R66: what is asked of a new response is that its data comes only with `OK`. -/
theorem Inv.after_respond {s : State} (hs : Inv s) {code : FaultCode} {data : Option Block}
    (hok : data.isSome → code = .noFault) : Inv (respond code data s) := by
  refine { hs with data_only_if_ok := fun r hr hdata => ?_ }
  rw [respond_responses, List.mem_append, List.mem_singleton] at hr
  rcases hr with hold | rfl
  · exact hs.data_only_if_ok r hold hdata
  · exact hok hdata

theorem Inv.after_load {s : State} (hs : Inv s) (key : Key) : Inv (loadRoundKeys (keySchedule key) s) :=
  { hs with
    keyValid_iff_rk := rfl
    rk_scheduled := fun _ hks => ⟨key, (Option.some.inj hks).symm⟩ }

theorem Inv.after_store {s : State} (hs : Inv s) (d : Block) : Inv (storeResult d s) :=
  { hs with outValid_iff_dout := rfl }

/-- R200: a reset leaves the registers without a value, and the responses as they were. -/
theorem Inv.after_reset {s : State} (hs : Inv s) : Inv (resetCore s) where
  keyValid_iff_rk := rfl
  rk_scheduled _ hks := by cases hks
  outValid_iff_dout := rfl
  data_only_if_ok := hs.data_only_if_ok

/-! ### Commands and steps -/

theorem CommandEffect.keeps_inv {c : Command} {s t : State} (he : CommandEffect c s t) (hs : Inv s) : Inv t := by
  cases he with
  | rejected _ => exact hs.after_respond (by simp)
  | faulted f _ _ => exact (hs.after_fault f).after_respond (by simp)
  | loaded _ _ _ => exact (hs.after_load _).after_respond (by simp)
  | stored d _ _ _ _ => exact (hs.after_store d).after_respond fun _ => rfl

/-- Settles O26: an idle step changes nothing, a reset and each effect of a command keep the invariant. -/
theorem invariantKeptByEveryStep : Obligations.InvariantKeptByEveryStep := by
  intro s t hs h
  cases step_next h with
  | idle _ => exact hs
  | reset rest _ => exact (hs.after_take rest).after_reset
  | resetOver _ rest _ => exact (hs.after_take rest).after_reset
  | command _ rest _ _ he => exact he.keeps_inv (hs.after_take rest)

end Sys2Proof.Machine
end

section
/-! SUPPORT. Which commands write the registers (spec 10_state.md R20 to R23). -/

namespace Sys2Proof.Machine

theorem eq_commandWord {w : BitVec 8} {op : BitVec 2} {len : BitVec 6} (hop : opOf w = op) (hl : lenOf w = len) :
    w = commandWord op len := by
  rw [← hop, ← hl, commandWord_fields]

/-- R20, R21: a command leaves the key registers alone, or it is `LDKEY` and writes them. -/
theorem CommandEffect.key_registers {c : Command} {s t : State} (he : CommandEffect c s t) :
    (t.rk = s.rk ∧ t.keyValid = s.keyValid) ∨
      (c.cmd = 0x60 ∧ s.fault = .noFault ∧ t.rk = some (keySchedule c.din) ∧ t.keyValid = true) := by
  cases he with
  | rejected _ => exact .inl ⟨rfl, rfl⟩
  | faulted _ _ _ => exact .inl ⟨rfl, rfl⟩
  | loaded hf hop hl => exact .inr ⟨eq_commandWord hop hl, hf, rfl, rfl⟩
  | stored _ _ _ _ _ => exact .inl ⟨rfl, rfl⟩

/-- R22, R23: a command leaves the result registers alone, or it is `ENC` or `DEC` with a key loaded and writes them. -/
theorem CommandEffect.result_registers {c : Command} {s t : State} (he : CommandEffect c s t) :
    (t.dout = s.dout ∧ t.outValid = s.outValid) ∨
      ((c.cmd = 0x90 ∨ c.cmd = 0xD0) ∧ s.fault = .noFault ∧ s.keyValid = true ∧ t.outValid = true) := by
  cases he with
  | rejected _ => exact .inl ⟨rfl, rfl⟩
  | faulted _ _ _ => exact .inl ⟨rfl, rfl⟩
  | loaded _ _ _ => exact .inl ⟨rfl, rfl⟩
  | stored _ hf hop hl hv =>
    have hw : c.cmd = 0x90 ∨ c.cmd = 0xD0 := hop.imp (eq_commandWord (op := 0b10) · hl) (eq_commandWord (op := 0b11) · hl)
    exact .inr ⟨hw, hf, hv, rfl⟩

/-- Settles O24: a step is idle, a reset, or a command, which writes the registers as its effect says. -/
theorem onlyTheirCommandsWriteRegisters : Obligations.OnlyTheirCommandsWriteRegisters := by
  intro s t h
  cases step_next h with
  | idle _ => exact ⟨.inl ⟨rfl, rfl⟩, .inl ⟨rfl, rfl⟩⟩
  | reset rest hp => exact ⟨.inr (.inl ⟨rest, hp⟩), .inr (.inl ⟨rest, hp⟩)⟩
  | resetOver c rest hp => exact ⟨.inr (.inr (.inl ⟨c, rest, hp⟩)), .inr (.inr (.inl ⟨c, rest, hp⟩))⟩
  | command c rest _ hp he =>
    exact ⟨he.key_registers.imp_right fun hw => .inr (.inr ⟨c, rest, hp, hw⟩),
      he.result_registers.imp_right fun hw => .inr (.inr ⟨c, rest, hp, hw⟩)⟩

end Sys2Proof.Machine
end

section
/-! SUPPORT. What the host can tell of `RK` (spec 10_state.md R20, 60_exceptions.md R185). -/

namespace Sys2Proof.Machine

/-- Two states that differ at most in what `RK` holds. -/
structure SameButRk (s₁ s₂ : State) : Prop where
  keyValid : s₁.keyValid = s₂.keyValid
  dout : s₁.dout = s₂.dout
  outValid : s₁.outValid = s₂.outValid
  fault : s₁.fault = s₂.fault
  port : s₁.port = s₂.port
  responses : s₁.responses = s₂.responses

/-- Two commands answered alike: both have a next state, and these differ at most in what `RK` holds. -/
def AnsweredAlike (first second : Result) : Prop :=
  ∃ t₁ t₂, first = .next t₁ ∧ second = .next t₂ ∧ SameButRk t₁ t₂

theorem sameButRk_withRk (s : State) (r₁ r₂ : Option RoundKeys) : SameButRk { s with rk := r₁ } { s with rk := r₂ } :=
  ⟨rfl, rfl, rfl, rfl, rfl, rfl⟩

/-- R216: `RK` is not among what is observed. -/
theorem SameButRk.observe_eq {s₁ s₂ : State} (h : SameButRk s₁ s₂) : observe s₁ = observe s₂ := by
  simp only [observe, status, doutOutput, h.keyValid, h.dout, h.outValid, h.fault, h.responses]

theorem SameButRk.after_respond {s₁ s₂ : State} (h : SameButRk s₁ s₂) (code : FaultCode) (data : Option Block) :
    SameButRk (respond code data s₁) (respond code data s₂) :=
  { h with responses := by rw [respond_responses, respond_responses, h.responses] }

theorem SameButRk.after_load {s₁ s₂ : State} (h : SameButRk s₁ s₂) (ks₁ ks₂ : RoundKeys) :
    SameButRk (loadRoundKeys ks₁ s₁) (loadRoundKeys ks₂ s₂) :=
  { h with keyValid := rfl }

theorem SameButRk.after_fault {s₁ s₂ : State} (h : SameButRk s₁ s₂) (code : FaultCode) :
    SameButRk { s₁ with fault := code } { s₂ with fault := code } :=
  { h with fault := rfl }

theorem takeFault_alike {s₁ s₂ : State} (h : SameButRk s₁ s₂) (code : FaultCode) :
    AnsweredAlike (takeFault code s₁) (takeFault code s₂) :=
  ⟨_, _, rfl, rfl, (h.after_fault code).after_respond code none⟩

/-- R176: the faulted state answers without a look at `RK`. -/
theorem unlessFaulted_alike {run₁ run₂ : State → Result} {s₁ s₂ : State} (h : SameButRk s₁ s₂)
    (hrun : AnsweredAlike (run₁ s₁) (run₂ s₂)) :
    AnsweredAlike (unlessFaulted run₁ s₁) (unlessFaulted run₂ s₂) := by
  by_cases hf : s₂.fault = .noFault
  · rwa [unlessFaulted_of_noFault (h.fault.trans hf), unlessFaulted_of_noFault hf]
  · rw [unlessFaulted_of_fault (h.fault ▸ hf), unlessFaulted_of_fault hf, h.fault]
    exact ⟨_, _, rfl, rfl, h.after_respond _ none⟩

theorem reservedCommand_alike {s₁ s₂ : State} (h : SameButRk s₁ s₂) :
    AnsweredAlike (reservedCommand s₁) (reservedCommand s₂) :=
  unlessFaulted_alike h (takeFault_alike h .illegalOp)

/-- R110: the answer to a key load shows neither the key nor what `RK` held before. -/
theorem ldkeyCommand_alike {s₁ s₂ : State} (h : SameButRk s₁ s₂) (len : BitVec 6) (d₁ d₂ : Lanes) :
    AnsweredAlike (ldkeyCommand ⟨len, d₁⟩ s₁) (ldkeyCommand ⟨len, d₂⟩ s₂) := by
  refine unlessFaulted_alike h ?_
  by_cases hl : len = Config.keyLen
  · rw [if_neg (not_not.mpr hl), if_neg (not_not.mpr hl)]
    exact ⟨_, _, rfl, rfl, (h.after_load _ _).after_respond .noFault none⟩
  · rw [if_pos hl, if_pos hl]
    exact takeFault_alike h .invalidLength

/-- R171, R174: the length is checked before the round keys are read. -/
theorem cipherCommand_alike {s₁ s₂ : State} (h : SameButRk s₁ s₂) (cipher : RoundKeys → Block → Block) {o : Operand}
    (hl : o.len ≠ Config.blockLen) : AnsweredAlike (cipherCommand cipher o s₁) (cipherCommand cipher o s₂) := by
  refine unlessFaulted_alike h ?_
  rw [if_pos hl, if_pos hl]
  exact takeFault_alike h .invalidLength

theorem exec_decode_alike {s₁ s₂ : State} (h : SameButRk s₁ s₂) {c : Command}
    (hc : ¬ ((opOf c.cmd = 0b10 ∨ opOf c.cmd = 0b11) ∧ lenOf c.cmd = Config.blockLen)) :
    AnsweredAlike (exec (decode c) s₁) (exec (decode c) s₂) := by
  rcases opOf_cases c.cmd with hop | hop | hop | hop
  · rw [exec_decode_op00 hop, exec_decode_op00 hop]
    exact reservedCommand_alike h
  · rw [exec_decode_op01 hop, exec_decode_op01 hop]
    exact ldkeyCommand_alike h _ c.din c.din
  · rw [exec_decode_op10 hop, exec_decode_op10 hop]
    exact cipherCommand_alike h encryptBlock fun hl => hc ⟨.inl hop, hl⟩
  · rw [exec_decode_op11 hop, exec_decode_op11 hop]
    exact cipherCommand_alike h decryptBlock fun hl => hc ⟨.inr hop, hl⟩

/-- Commands answered alike are observed alike. -/
theorem AnsweredAlike.observed {first second : Result} (h : AnsweredAlike first second) :
    ∃ t₁ t₂, first = .next t₁ ∧ second = .next t₂ ∧ observe t₁ = observe t₂ := by
  obtain ⟨t₁, t₂, h₁, h₂, hsame⟩ := h
  exact ⟨t₁, t₂, h₁, h₂, hsame.observe_eq⟩

/-- Settles O33: `RK` is read after the other checks of a cipher command only, and `LDKEY` answers without data. -/
theorem roundKeysAreNotObservable : Obligations.RoundKeysAreNotObservable :=
  ⟨fun _ s k₁ k₂ hc => (exec_decode_alike (sameButRk_withRk s (some k₁) (some k₂)) hc).observed,
    fun d₁ d₂ s => (ldkeyCommand_alike (sameButRk_withRk s s.rk s.rk) Config.keyLen d₁ d₂).observed⟩

end Sys2Proof.Machine
end

section
/-! SUPPORT. `STATUS` bit by bit, and the values after reset (spec 10_state.md R24, R29, R31). -/

namespace Sys2Proof.Machine

/-! The two low bits lie in the lower half of `STATUS`, the fault code is its upper half. -/

theorem getLsbD_status_zero (s : State) : (status s).getLsbD 0 = s.keyValid :=
  BitVec.getLsbD_append.trans (BitVec.getLsbD_append.trans (by simp))

theorem getLsbD_status_one (s : State) : (status s).getLsbD 1 = s.outValid :=
  BitVec.getLsbD_append.trans (BitVec.getLsbD_append.trans (by simp))

theorem extractLsb'_status (s : State) : (status s).extractLsb' 2 2 = codeBits s.fault :=
  BitVec.extractLsb'_append_eq_left

theorem status_reset : status State.reset = 0b0000 := rfl

/-- Settles O28: each bit from the half of `STATUS` it lies in. -/
theorem statusIsAView : Obligations.StatusIsAView :=
  ⟨fun s => ⟨getLsbD_status_zero s, getLsbD_status_one s, extractLsb'_status s⟩, status_reset, rfl, rfl, rfl, rfl⟩

/-- Settles O27: each value is the one `State.reset` is defined with. -/
theorem resetStateValues : Obligations.ResetStateValues := ⟨rfl, rfl, rfl, rfl, rfl, status_reset⟩

end Sys2Proof.Machine
end

section
/-! SUPPORT. Which answers do not depend on `DIN`, or on a part of it (spec 20_memory.md R44): a cipher command reads the lower half,
and a command that is rejected or faults reads none of it (60_exceptions.md R171 to R176). -/

namespace Sys2Proof.Machine

/-- R64: a cipher command reads the block, the lower half of its lanes, and nothing else of them. -/
theorem cipherCommand_congr_block (cipher : RoundKeys → Block → Block) (len : BitVec 6) {d e : Lanes}
    (h : blockOperand d = blockOperand e) : cipherCommand cipher ⟨len, d⟩ = cipherCommand cipher ⟨len, e⟩ := by
  simp only [cipherCommand, h]

theorem reservedCommand_of_noFault {s : State} (hf : s.fault = .noFault) :
    reservedCommand s = .next (respond .illegalOp none { s with fault := .illegalOp }) :=
  unlessFaulted_of_noFault hf

theorem cipherCommand_of_blockLen_ne (cipher : RoundKeys → Block → Block) {o : Operand} {s : State}
    (hf : s.fault = .noFault) (hl : o.len ≠ Config.blockLen) :
    cipherCommand cipher o s = .next (respond .invalidLength none { s with fault := .invalidLength }) := by
  rw [cipherCommand, unlessFaulted_of_noFault hf, if_pos hl, takeFault]

theorem cipherCommand_of_no_key (cipher : RoundKeys → Block → Block) {o : Operand} {s : State} (hf : s.fault = .noFault)
    (hl : o.len = Config.blockLen) (hv : s.keyValid = false) :
    cipherCommand cipher o s = .next (respond .keyNotLoaded none { s with fault := .keyNotLoaded }) := by
  rw [cipherCommand, unlessFaulted_of_noFault hf, if_neg (not_not.mpr hl), if_pos hv, takeFault]

/-- The two operation codes of the cipher differ in the function of their direction only. -/
theorem exec_decode_cipher {c : Command} (hop : opOf c.cmd = 0b10 ∨ opOf c.cmd = 0b11) (s : State) :
    ∃ cipher, exec (decode c) s = cipherCommand cipher ⟨lenOf c.cmd, c.din⟩ s :=
  hop.elim (fun h => ⟨_, exec_decode_op10 h s⟩) fun h => ⟨_, exec_decode_op11 h s⟩

/-- R176: in the faulted state every command is rejected, whatever its word and its lanes are. -/
theorem exec_decode_of_fault (c : Command) {s : State} (hf : s.fault ≠ .noFault) :
    exec (decode c) s = .next (respond s.fault none s) := by
  rcases opOf_cases c.cmd with hop | hop | hop | hop
  · rw [exec_decode_op00 hop, reservedCommand, unlessFaulted_of_fault hf]
  · rw [exec_decode_op01 hop, ldkeyCommand, unlessFaulted_of_fault hf]
  · rw [exec_decode_op10 hop, cipherCommand, unlessFaulted_of_fault hf]
  · rw [exec_decode_op11 hop, cipherCommand, unlessFaulted_of_fault hf]

/-- R171 to R173, R175: the cause of a fault, which the word and `KEY_VALID` decide, gives the whole answer. -/
theorem exec_decode_of_faultCause {c : Command} {s : State} {f : FaultCode} (hf : s.fault = .noFault)
    (hcause : FaultCause c s f) : exec (decode c) s = .next (respond f none { s with fault := f }) := by
  cases f with
  | noFault => exact hcause.elim
  | illegalOp => rw [exec_decode_op00 hcause, reservedCommand_of_noFault hf]
  | invalidLength =>
    rcases hcause with ⟨hop, hl⟩ | ⟨hop, hl⟩
    · rw [exec_decode_op01 hop, ldkeyCommand_of_keyLen_ne hf hl]
    · obtain ⟨cipher, hx⟩ := exec_decode_cipher hop s
      rw [hx, cipherCommand_of_blockLen_ne cipher hf hl]
  | keyNotLoaded =>
    obtain ⟨hop, hl, hv⟩ := hcause
    obtain ⟨cipher, hx⟩ := exec_decode_cipher hop s
    rw [hx, cipherCommand_of_no_key cipher hf hl hv]

/-- The cause of a fault says nothing of `DIN`. -/
theorem faultCause_withDin (c : Command) (s : State) (f : FaultCode) (d : Lanes) :
    FaultCause { c with din := d } s f ↔ FaultCause c s f := by cases f <;> rfl

/-- R44: a command that leaves a fault was rejected or faulted, and either answer is the same for all lanes. -/
theorem exec_decode_withDin {c : Command} {s t : State} (h : exec (decode c) s = .next t) (ht : t.fault ≠ .noFault)
    (d : Lanes) : exec (decode { c with din := d }) s = .next t := by
  cases exec_decode_next h with
  | rejected hf => exact exec_decode_of_fault _ hf
  | faulted f hf hcause => exact exec_decode_of_faultCause hf ((faultCause_withDin c s f d).mpr hcause)
  | loaded hf _ _ => exact absurd hf ht
  | stored _ hf _ _ _ => exact absurd hf ht

/-- Settles O32: a cipher command reads the block only, and neither a rejection nor a fault reads a lane. -/
theorem ignoredLanesHaveNoEffect : Obligations.IgnoredLanesHaveNoEffect := by
  refine ⟨fun d e s h => ?_, fun _ d _ _ hx ht => exec_decode_withDin hx ht d⟩
  rw [exec_enc, exec_enc, exec_dec, exec_dec, cipherCommand_congr_block encryptBlock _ h,
    cipherCommand_congr_block decryptBlock _ h]
  exact ⟨rfl, rfl⟩

end Sys2Proof.Machine
end

section
/-! SUPPORT. The decoder on a command put together from its fields, and what the encoder makes of its answer (spec 30_encoding.md
R60, R62, R67). -/

namespace Sys2Proof.Machine

/-! ### Fields of commands -/

/-- R60: no bit of a command lies outside its operation code and its operand. -/
theorem commandOf_fields (c : Command) : commandOf (opOf c.cmd) ⟨lenOf c.cmd, c.din⟩ = c := by
  rw [commandOf, commandWord_fields]

theorem operationCode_cases (op : BitVec 2) : op = 0b00 ∨ op = 0b01 ∨ op = 0b10 ∨ op = 0b11 := by
  revert op
  decide

/-! ### The decoder by operation code -/

theorem decode_commandOf_op00 (o : Operand) : decode (commandOf 0b00 o) = .reserved o := by
  simp [decode]

theorem decode_commandOf_op01 (len : BitVec 6) (din : Lanes) :
    decode (commandOf 0b01 ⟨len, din⟩) = if len = Config.keyLen then .ldkey din else .ldkeyBadlen ⟨len, din⟩ := by
  simp [decode]

theorem decode_commandOf_op10 (len : BitVec 6) (din : Lanes) :
    decode (commandOf 0b10 ⟨len, din⟩) = if len = Config.blockLen then .enc din else .encBadlen ⟨len, din⟩ := by
  simp [decode]

theorem decode_commandOf_op11 (len : BitVec 6) (din : Lanes) :
    decode (commandOf 0b11 ⟨len, din⟩) = if len = Config.blockLen then .dec din else .decBadlen ⟨len, din⟩ := by
  simp [decode]

/-! ### There and back -/

/-- Settles O34: the command carries the operation code and the operand, and a well-formed wrong-length form does not have the
length the decoder looks for. -/
theorem decodeOfEncode : Obligations.DecodeOfEncode := by
  intro i hw hp
  cases i with
  | ldkey din => exact ⟨_, rfl, (decode_commandOf_op01 _ din).trans (if_pos rfl)⟩
  | enc din => exact ⟨_, rfl, (decode_commandOf_op10 _ din).trans (if_pos rfl)⟩
  | dec din => exact ⟨_, rfl, (decode_commandOf_op11 _ din).trans (if_pos rfl)⟩
  | ldkeyBadlen o => exact ⟨_, rfl, (decode_commandOf_op01 o.len o.lanes).trans (if_neg (bne_iff_ne.mp hw))⟩
  | encBadlen o => exact ⟨_, rfl, (decode_commandOf_op10 o.len o.lanes).trans (if_neg (bne_iff_ne.mp hw))⟩
  | decBadlen o => exact ⟨_, rfl, (decode_commandOf_op11 o.len o.lanes).trans (if_neg (bne_iff_ne.mp hw))⟩
  | reserved o => exact ⟨_, rfl, decode_commandOf_op00 o⟩
  | encrypt block key => cases hp
  | decrypt block key => cases hp

/-- Settles O35: a command is its operation code and its operand, and the instruction of each operation code keeps the operand,
the legal length in its name. -/
theorem encodeOfDecode : Obligations.EncodeOfDecode := by
  intro c
  obtain ⟨op, len, din, rfl⟩ : ∃ op len din, c = commandOf op ⟨len, din⟩ := ⟨_, _, _, (commandOf_fields c).symm⟩
  rcases operationCode_cases op with rfl | rfl | rfl | rfl
  · rw [decode_commandOf_op00]
    exact ⟨rfl, rfl, rfl⟩
  · rw [decode_commandOf_op01]
    split
    · next hl => subst hl; exact ⟨rfl, rfl, rfl⟩
    · next hl => exact ⟨bne_iff_ne.mpr hl, rfl, rfl⟩
  · rw [decode_commandOf_op10]
    split
    · next hl => subst hl; exact ⟨rfl, rfl, rfl⟩
    · next hl => exact ⟨bne_iff_ne.mpr hl, rfl, rfl⟩
  · rw [decode_commandOf_op11]
    split
    · next hl => subst hl; exact ⟨rfl, rfl, rfl⟩
    · next hl => exact ⟨bne_iff_ne.mpr hl, rfl, rfl⟩

/-! ### Rows of the table -/

/-! R67: an exact row is the word of an operation code with its legal length; the mask of the other rows drops the length. -/

theorem commandWord_eq_ldkey {op : BitVec 2} {len : BitVec 6} :
    commandWord op len = 0x60 ↔ op = 0b01 ∧ len = Config.keyLen := by
  revert op len
  decide

theorem commandWord_eq_enc {op : BitVec 2} {len : BitVec 6} :
    commandWord op len = 0x90 ↔ op = 0b10 ∧ len = Config.blockLen := by
  revert op len
  decide

theorem commandWord_eq_dec {op : BitVec 2} {len : BitVec 6} :
    commandWord op len = 0xD0 ↔ op = 0b11 ∧ len = Config.blockLen := by
  revert op len
  decide

theorem commandWord_masked_eq_reserved {op : BitVec 2} {len : BitVec 6} :
    commandWord op len &&& 0xC0 = 0x00 ↔ op = 0b00 := by
  revert op len
  decide

theorem commandWord_masked_eq_ldkey {op : BitVec 2} {len : BitVec 6} :
    commandWord op len &&& 0xC0 = 0x40 ↔ op = 0b01 := by
  revert op len
  decide

theorem commandWord_masked_eq_enc {op : BitVec 2} {len : BitVec 6} :
    commandWord op len &&& 0xC0 = 0x80 ↔ op = 0b10 := by
  revert op len
  decide

/-- Settles O36: the row is decided by the operation code and by whether the length is its legal one. -/
theorem commandWordRows : Obligations.CommandWordRows := by
  intro w din
  obtain ⟨op, len, rfl⟩ : ∃ op len, w = commandWord op len := ⟨_, _, (commandWord_fields w).symm⟩
  change mnemonicOf (decode (commandOf op ⟨len, din⟩)) = _
  simp only [commandWord_eq_ldkey, commandWord_eq_enc, commandWord_eq_dec, commandWord_masked_eq_reserved,
    commandWord_masked_eq_ldkey, commandWord_masked_eq_enc]
  rcases operationCode_cases op with rfl | rfl | rfl | rfl
  · rw [decode_commandOf_op00]
    rfl
  · rw [decode_commandOf_op01]
    by_cases hl : len = Config.keyLen <;> simp [hl, mnemonicOf]
  · rw [decode_commandOf_op10]
    by_cases hl : len = Config.blockLen <;> simp [hl, mnemonicOf]
  · rw [decode_commandOf_op11]
    by_cases hl : len = Config.blockLen <;> simp [hl, mnemonicOf]

/-- Settles O37: the decoder evaluated on seven words. -/
theorem sampleWordsDecode : Obligations.SampleWordsDecode := by
  unfold Obligations.SampleWordsDecode
  decide

/-! ### The assembler -/

theorem assemble_of_le (op : BitVec 2) {bs : List Byte} (h : bs.length ≤ 63) :
    assemble op bs = some (commandOf op ⟨BitVec.ofNat 6 bs.length, bytesToBits 256 (bs.take 32)⟩) := by
  rw [assemble, operandOfBytes, if_pos h, Option.map_some]

theorem assemble_of_gt (op : BitVec 2) {bs : List Byte} (h : 63 < bs.length) : assemble op bs = none := by
  rw [assemble, operandOfBytes, if_neg (by omega), Option.map_none]

/-- Settles O38: six bits hold a length up to 63, and the byte on a lane is that of the first 32 bytes, or 0 past their end. -/
theorem assemblerPlacesBytes : Obligations.AssemblerPlacesBytes := by
  refine fun op bs => ⟨assemble_of_gt op, fun h => ⟨_, assemble_of_le op h, ?_, ?_, fun j hj => ?_⟩⟩
  · rw [commandOf_cmd, opOf_commandWord]
  · rw [commandOf_cmd, lenOf_commandWord, BitVec.toNat_ofNat, Nat.mod_eq_of_lt (by omega)]
  · rw [commandOf_din, byte_bytesToBits _ (by omega), List.getD_eq_getElem?_getD, List.getElem?_take_of_lt hj,
      ← List.getD_eq_getElem?_getD]

end Sys2Proof.Machine
end

section
/-! SUPPORT. What a decoded command does, its checks in order, and instructions as lists of commands (spec 30_encoding.md R65, R70;
60_exceptions.md R174; 20_memory.md R47). -/

namespace Sys2Proof.Machine

/-- Settles O1: the port gives the command, and the step executes what it decodes to. -/
theorem stepRunsDecodedCommand : Obligations.StepRunsDecodedCommand := fun _ _ _ hp => step_of_command hp

/-- Settles O5: down the list of checks, each branch is the rejection, a fault by its cause, or the operation. -/
theorem commandDispatchOrder : Obligations.CommandDispatchOrder := by
  intro c s ks hk
  split
  · next hf => exact exec_decode_of_fault c hf
  next hf =>
  replace hf : s.fault = .noFault := not_not.mp hf
  split
  · next h00 => exact exec_decode_of_faultCause (f := .illegalOp) hf h00
  next h00 =>
  split
  · next h01 =>
    split
    · next hl => exact exec_decode_of_faultCause (f := .invalidLength) hf (.inl ⟨h01, hl⟩)
    · next hl => exact (exec_decode_op01 h01 s).trans (ldkeyCommand_of_keyLen hf (not_not.mp hl))
  next h01 =>
  have hop : opOf c.cmd = 0b10 ∨ opOf c.cmd = 0b11 := ((opOf_cases c.cmd).resolve_left h00).resolve_left h01
  split
  · next hl => exact exec_decode_of_faultCause (f := .invalidLength) hf (.inr ⟨hop, hl⟩)
  next hl =>
  replace hl : lenOf c.cmd = Config.blockLen := not_not.mp hl
  split
  · next hv => exact exec_decode_of_faultCause (f := .keyNotLoaded) hf ⟨hop, hl, hv⟩
  next hv =>
  replace hv : s.keyValid = true := Bool.eq_true_of_not_eq_false hv
  rcases hop with h10 | h11
  · rw [exec_decode_op10 h10, cipherCommand_of_loaded _ _ hf hv (hk hv), if_pos hl]
    simp only [if_pos h10]
    rfl
  · rw [exec_decode_op11 h11, cipherCommand_of_loaded _ _ hf hv (hk hv), if_pos hl]
    have h10 : opOf c.cmd ≠ 0b10 := by rw [h11]; decide
    simp only [if_neg h10]
    rfl

/-! ### Instructions as lists of commands -/

theorem andThen_next_right (r : Result) : andThen r .next = r := by
  cases r <;> rfl

theorem runCommands_singleton (c : Command) : runCommands [c] = exec (decode c) :=
  funext fun s => andThen_next_right (exec (decode c) s)

theorem runCommands_pair (c d : Command) (s : State) :
    runCommands [c, d] s = andThen (exec (decode c) s) (exec (decode d)) := by
  rw [← runCommands_singleton d, runCommands]

theorem exec_decode_commandOf_op01 (o : Operand) : exec (decode (commandOf 0b01 o)) = ldkeyCommand o :=
  funext fun s => by
    rw [exec_decode_op01 (c := commandOf 0b01 o) (opOf_commandWord _ _), commandOf_cmd, lenOf_commandWord, commandOf_din]

theorem exec_decode_commandOf_op10 (o : Operand) : exec (decode (commandOf 0b10 o)) = cipherCommand encryptBlock o :=
  funext fun s => by
    rw [exec_decode_op10 (c := commandOf 0b10 o) (opOf_commandWord _ _), commandOf_cmd, lenOf_commandWord, commandOf_din]

theorem exec_decode_commandOf_op11 (o : Operand) : exec (decode (commandOf 0b11 o)) = cipherCommand decryptBlock o :=
  funext fun s => by
    rw [exec_decode_op11 (c := commandOf 0b11 o) (opOf_commandWord _ _), commandOf_cmd, lenOf_commandWord, commandOf_din]

theorem exec_of_isPseudo {i : Instr} (h : i.isPseudo = true) (s : State) : exec i s = runCommands (encode i) s := by
  cases i with
  | encrypt block key =>
    rw [exec_encrypt, encode, runCommands_pair, exec_decode_commandOf_op01, exec_decode_commandOf_op10]
  | decrypt block key =>
    rw [exec_decrypt, encode, runCommands_pair, exec_decode_commandOf_op01, exec_decode_commandOf_op11]
  | _ => cases h

/-- Settles O19: an instruction of the command port is the one command it is decoded from, a pseudo-operation the two commands it
stands for. -/
theorem instructionIsItsCommands : Obligations.InstructionIsItsCommands := by
  intro i s hw
  cases hp : i.isPseudo with
  | false =>
    obtain ⟨c, hc, hi⟩ := decodeOfEncode i hw hp
    rw [hc, runCommands_singleton, hi]
  | true => exact exec_of_isPseudo hp s

end Sys2Proof.Machine
end

section
/-! SUPPORT. The two pseudo-operations as whole changes of the state, one equation for each way they can go (spec 30_encoding.md R70,
60_exceptions.md R175, R176). -/

namespace Sys2Proof.Machine

/-! ### `LDKEY` and then a cipher command -/

theorem loadThenCipher_of_fault (cipher : RoundKeys → Block → Block) (block key : Operand) {s : State}
    (hf : s.fault ≠ .noFault) :
    andThen (ldkeyCommand key s) (cipherCommand cipher block) =
      .next { s with responses := s.responses ++ [⟨s.fault, none⟩, ⟨s.fault, none⟩] } := by
  rw [ldkeyCommand, unlessFaulted_of_fault hf, andThen_next, cipherCommand, unlessFaulted_of_fault (by simpa using hf)]
  simp [respond]

theorem loadThenCipher_of_keyLen_ne (cipher : RoundKeys → Block → Block) (block : Operand) {key : Operand} {s : State}
    (hf : s.fault = .noFault) (hk : key.len ≠ Config.keyLen) :
    andThen (ldkeyCommand key s) (cipherCommand cipher block) =
      .next { s with
        fault := .invalidLength,
        responses := s.responses ++ [⟨.invalidLength, none⟩, ⟨.invalidLength, none⟩] } := by
  rw [ldkeyCommand_of_keyLen_ne hf hk, andThen_next, cipherCommand_after_fault cipher block (by decide)]
  simp [respond]

theorem loadThenCipher_of_blockLen_ne (cipher : RoundKeys → Block → Block) {block key : Operand} {s : State}
    (hf : s.fault = .noFault) (hk : key.len = Config.keyLen) (hb : block.len ≠ Config.blockLen) :
    andThen (ldkeyCommand key s) (cipherCommand cipher block) =
      .next { s with
        rk := some (keySchedule key.lanes), keyValid := true, fault := .invalidLength,
        responses := s.responses ++ [⟨.noFault, none⟩, ⟨.invalidLength, none⟩] } := by
  rw [ldkeyCommand_of_keyLen hf hk, andThen_next, cipherCommand_after_load cipher block _ hf, if_neg hb]
  simp [takeFault, respond, loadRoundKeys, keyOperand]

theorem loadThenCipher_of_lengths (cipher : RoundKeys → Block → Block) {block key : Operand} {s : State} {d : Block}
    (hf : s.fault = .noFault) (hk : key.len = Config.keyLen) (hb : block.len = Config.blockLen)
    (hd : d = cipher (keySchedule key.lanes) (block.lanes.extractLsb' 0 128)) :
    andThen (ldkeyCommand key s) (cipherCommand cipher block) =
      .next { s with
        rk := some (keySchedule key.lanes), keyValid := true, dout := some d, outValid := true,
        responses := s.responses ++ [⟨.noFault, none⟩, ⟨.noFault, some d⟩] } := by
  rw [ldkeyCommand_of_keyLen hf hk, andThen_next, cipherCommand_after_load cipher block _ hf, if_pos hb, hd]
  simp [respond, storeResult, loadRoundKeys, keyOperand, blockOperand]

/-! ### The pseudo-operations -/

/-- R70: the two pseudo-operations differ in the function of their direction only. -/
theorem exec_pseudo {block key : Operand} {i : Instr} (hi : i = .encrypt block key ∨ i = .decrypt block key) (s : State) :
    ∃ cipher, exec i s = andThen (ldkeyCommand key s) (cipherCommand cipher block) := by
  rcases hi with rfl | rfl
  · exact ⟨_, exec_encrypt block key s⟩
  · exact ⟨_, exec_decrypt block key s⟩

/-- Settles O17: both directions are `LDKEY` and then a cipher command of the right length. -/
theorem pseudoOperationsComplete : Obligations.PseudoOperationsComplete :=
  fun _ _ _ _ _ hf hk hb hc hd =>
    ⟨loadThenCipher_of_lengths encryptBlock hf hk hb hc, loadThenCipher_of_lengths decryptBlock hf hk hb hd⟩

/-- Settles O18: either the first command meets the wrong length, or the second does with the key loaded. -/
theorem pseudoOperationsWrongLengths : Obligations.PseudoOperationsWrongLengths := by
  intro block key s i hf hi
  obtain ⟨cipher, hx⟩ := exec_pseudo hi s
  rw [hx]
  exact ⟨loadThenCipher_of_keyLen_ne cipher block hf, loadThenCipher_of_blockLen_ne cipher hf⟩

/-- Settles O23: rejected, wrong key length, wrong block length and completed are all the ways there are, each a whole change of the
state. -/
theorem pseudoOperationsFrame : Obligations.PseudoOperationsFrame := by
  intro block key i s t hi h
  obtain ⟨cipher, hx⟩ := exec_pseudo hi s
  rw [hx] at h
  by_cases hf : s.fault = .noFault
  swap
  · rw [loadThenCipher_of_fault cipher block key hf] at h
    cases h
    exact ⟨rfl, fun _ => rfl, fun _ => ⟨rfl, rfl⟩, fun _ => ⟨rfl, rfl⟩, fun _ _ _ => rfl, _, _, rfl⟩
  by_cases hk : key.len = Config.keyLen
  swap
  · rw [loadThenCipher_of_keyLen_ne cipher block hf hk] at h
    cases h
    exact ⟨rfl, fun hs => absurd hf hs, fun _ => ⟨rfl, rfl⟩, fun _ => ⟨rfl, rfl⟩, fun _ hk' _ => absurd hk' hk, _, _, rfl⟩
  have hopen : ¬ (s.fault ≠ .noFault ∨ key.len ≠ 32) := fun hs => hs.elim (absurd hf) (absurd hk)
  by_cases hb : block.len = Config.blockLen
  · rw [loadThenCipher_of_lengths cipher hf hk hb rfl] at h
    cases h
    exact ⟨rfl, fun _ => rfl, fun hs => absurd hs hopen, fun ht => absurd hf ht, fun _ _ _ => rfl, _, _, rfl⟩
  · rw [loadThenCipher_of_blockLen_ne cipher hf hk hb] at h
    cases h
    exact ⟨rfl, fun hs => absurd hf hs, fun hs => absurd hs hopen, fun _ => ⟨rfl, rfl⟩, fun _ _ hb' => absurd hb' hb, _, _, rfl⟩

end Sys2Proof.Machine
end

section
/-! SUPPORT. Rotation bit by bit, the S-boxes from both sides, and where the permutations take each bit from
(spec 40_tables_and_primitives.md R81 to R89). -/

namespace Sys2Proof.Machine

/-! ### Rotation -/

/-- The rotation of the spec is the library's: they differ in the shift count 32 for a rotation by 0, where both give back `x`. -/
theorem rotl32_eq_rotateLeft (x : Word) (n : Nat) : rotl32 x n = x.rotateLeft n := by
  rw [rotl32, BitVec.rotateLeft_def]
  by_cases h : n % 32 = 0
  · simp [h, BitVec.ushiftRight_eq_zero]
  · rw [Nat.mod_eq_of_lt (by omega : 32 - n % 32 < 32)]

/-- R81, for every `n`. -/
theorem getLsbD_rotl32 (x : Word) (n : Nat) {i : Nat} (hi : i < 32) :
    (rotl32 x n).getLsbD ((i + n) % 32) = x.getLsbD i := by
  rw [rotl32_eq_rotateLeft, BitVec.getLsbD_rotateLeft]
  by_cases hwrap : (i + n) % 32 < n % 32
  · have hpos : 32 - n % 32 + (i + n) % 32 = i := by omega
    simp [hwrap, hpos]
  · have hpos : (i + n) % 32 - n % 32 = i := by omega
    have hin : (i + n) % 32 < 32 := by omega
    simp [hwrap, hpos, hin]

theorem getLsbD_rotr32 (x : Word) (n : Nat) {i : Nat} (hi : i < 32) :
    (rotr32 x n).getLsbD i = x.getLsbD ((i + n) % 32) := by
  have hpos : ((i + n) % 32 + (32 - n % 32) % 32) % 32 = i := by omega
  rw [← getLsbD_rotl32 x ((32 - n % 32) % 32) (by omega : (i + n) % 32 < 32), hpos, rotr32]

@[simp] theorem rotr32_rotl32 (x : Word) (n : Nat) : rotr32 (rotl32 x n) n = x := by
  apply BitVec.eq_of_getLsbD_eq
  intro i hi
  rw [getLsbD_rotr32 _ n hi, getLsbD_rotl32 x n hi]

theorem rotl32_xor (x y : Word) (n : Nat) : rotl32 (x ^^^ y) n = rotl32 x n ^^^ rotl32 y n := by
  apply BitVec.eq_of_getLsbD_eq
  intro i hi
  obtain ⟨j, hj, rfl⟩ : ∃ j < 32, (j + n) % 32 = i := ⟨(i + (32 - n % 32)) % 32, by omega, by omega⟩
  rw [BitVec.getLsbD_xor, getLsbD_rotl32 _ n hj, getLsbD_rotl32 x n hj, getLsbD_rotl32 y n hj, BitVec.getLsbD_xor]

/-- The two shifted parts have no bit in common, so their union is their sum. -/
theorem toNat_rotl32 (x : Word) {n : Nat} (h : n < 32) :
    (rotl32 x n).toNat = (x.toNat * 2 ^ n) % 2 ^ 32 + x.toNat / 2 ^ (32 - n) := by
  have hpow : 2 ^ 32 = 2 ^ (32 - n) * 2 ^ n := by rw [← Nat.pow_add, Nat.sub_add_cancel h.le]
  have hhigh : (x.toNat * 2 ^ n) % 2 ^ 32 = (x.toNat % 2 ^ (32 - n)) <<< n := by
    rw [hpow, Nat.mul_mod_mul_right, Nat.shiftLeft_eq]
  have hlow : x.toNat / 2 ^ (32 - n) < 2 ^ n :=
    Nat.div_lt_of_lt_mul (hpow ▸ x.isLt)
  rw [rotl32_eq_rotateLeft, BitVec.toNat_rotateLeft, Nat.mod_eq_of_lt h, Nat.shiftLeft_eq, Nat.shiftRight_eq_div_pow, hhigh,
    Nat.shiftLeft_add_eq_or_of_lt hlow]

/-- Settles O43: bit `i` wraps round or not, and as numbers the two shifted parts fill different bits. -/
theorem rotationMovesEveryBit : Obligations.RotationMovesEveryBit := by
  intro x n hn
  refine ⟨fun i hi => getLsbD_rotl32 x n hi, ?_, by rw [rotr32, Nat.mod_eq_of_lt hn]⟩
  split
  · next h0 => subst h0; simp [rotl32]
  · exact toNat_rotl32 x hn

/-! ### The S-boxes -/

theorem sbox_sboxInv (b : Nat) (y : Nibble) : sbox b (sboxInv b y) = y := by
  have hrows : ∀ (r : Fin 8) (y : Nibble), SBOX[r][(SBOXINV[r][y.toNat]'y.isLt).toNat]'(BitVec.isLt _) = y := by decide
  exact hrows ⟨b % 8, Nat.mod_lt b (by decide)⟩ y

/-- Two of the eight boxes differ at 0 or at 1 already. -/
theorem exists_sbox_ne {b c : Nat} (hb : b < 8) (hc : c < 8) (h : b ≠ c) : ∃ x, sbox b x ≠ sbox c x := by
  have hrows : ∀ r q : Fin 8, r ≠ q → sbox r 0 ≠ sbox q 0 ∨ sbox r 1 ≠ sbox q 1 := by decide
  exact (hrows ⟨b, hb⟩ ⟨c, hc⟩ (by simpa using h)).elim (⟨0, ·⟩) (⟨1, ·⟩)

/-- Settles O44: `SBOXINV` undoes each row from both sides, and the rows are told apart by their first two columns. -/
theorem sboxesArePermutations : Obligations.SboxesArePermutations :=
  ⟨fun b x => ⟨sboxInv_sbox b x, sbox_sboxInv b x⟩, fun _ _ => exists_sbox_ne⟩

/-! ### The permutations -/

/-- R88: the four words of the input give the four bits of each output nibble. -/
theorem entry_IPT (i : Fin 128) : entry IPT i = 32 * (i % 4) + i / 4 := by
  revert i
  decide +kernel

/-- R89: the bit columns of the four words are the nibbles of the input. -/
theorem entry_FPT (i : Fin 128) : entry FPT i = 4 * (i % 32) + i / 32 := by
  revert i
  decide +kernel

theorem getLsbD_ip (v : Block) {i : Nat} (h : i < 128) : (ip v).getLsbD i = v.getLsbD (32 * (i % 4) + i / 4) := by
  rw [← entry_IPT ⟨i, h⟩]
  exact getLsbD_permute IPT v ⟨i, h⟩

theorem getLsbD_fp (v : Block) {i : Nat} (h : i < 128) : (fp v).getLsbD i = v.getLsbD (4 * (i % 32) + i / 32) := by
  rw [← entry_FPT ⟨i, h⟩]
  exact getLsbD_permute FPT v ⟨i, h⟩

/-- Settles O47: all the forms of the two formulas name the same positions. -/
theorem permutationsMoveBits : Obligations.PermutationsMoveBits := by
  intro v
  refine ⟨fun i hi => ⟨?_, ?_⟩, getLsbD_ip v (by decide), getLsbD_fp v (by decide), fun a c ha hc => ⟨?_, ?_⟩⟩
  · have hpos : 32 * i % 127 = 32 * (i % 4) + i / 4 := by omega
    rw [hpos, getLsbD_ip v (by omega)]
  · have hpos : 4 * i % 127 = 4 * (i % 32) + i / 32 := by omega
    rw [hpos, getLsbD_fp v (by omega)]
  · have hpos : 32 * ((4 * c + a) % 4) + (4 * c + a) / 4 = 32 * a + c := by omega
    rw [getLsbD_ip v (by omega), hpos]
  · have hpos : 4 * ((32 * a + c) % 32) + (32 * a + c) / 32 = 4 * c + a := by omega
    rw [getLsbD_fp v (by omega), hpos]

end Sys2Proof.Machine
end

section
/-! SUPPORT. The linear transform: its linearity, its inverse from both sides, and its word form
(spec 40_tables_and_primitives.md R91 to R95). -/

namespace Sys2Proof.Machine

/-! ### Linear maps of blocks -/

/-- A map of blocks that commutes with exclusive-or. -/
def XorLinear (f : Block → Block) : Prop := ∀ a b, f (a ^^^ b) = f a ^^^ f b

theorem XorLinear.comp {f g : Block → Block} (hf : XorLinear f) (hg : XorLinear g) : XorLinear fun v => f (g v) :=
  fun a b => (congrArg f (hg a b)).trans (hf _ _)

theorem XorLinear.map_zero {f : Block → Block} (hf : XorLinear f) : f 0 = 0 := by
  have h := hf 0 0
  rwa [BitVec.xor_self, BitVec.xor_self] at h

/-- Two linear maps that agree on the blocks with one bit set are equal: a block is taken apart bit by bit from the top. -/
theorem XorLinear.eq_of_single_bits {f g : Block → Block} (hf : XorLinear f) (hg : XorLinear g)
    (h : ∀ i : Fin 128, f (BitVec.twoPow 128 i) = g (BitVec.twoPow 128 i)) (v : Block) : f v = g v := by
  suffices hlow : ∀ n ≤ 128, ∀ w : Block, (∀ i, n ≤ i → w.getLsbD i = false) → f w = g w from
    hlow 128 le_rfl v fun i hi => BitVec.getLsbD_of_ge v i hi
  intro n
  induction n with
  | zero =>
    intro _ w hw
    have hzero : w = 0 := BitVec.eq_of_getLsbD_eq fun i _ => by simp [hw i (Nat.zero_le i)]
    rw [hzero, hf.map_zero, hg.map_zero]
  | succ n ih =>
    intro hn w hw
    by_cases hbit : w.getLsbD n = true
    · have hrest : f (w ^^^ BitVec.twoPow 128 n) = g (w ^^^ BitVec.twoPow 128 n) := by
        refine ih (by omega) _ fun i hi => ?_
        rcases Nat.eq_or_lt_of_le hi with rfl | hlt
        · simp [hbit, Nat.lt_of_succ_le hn]
        · simp [hw i hlt, Nat.ne_of_lt hlt]
      have hjoin : w = (w ^^^ BitVec.twoPow 128 n) ^^^ BitVec.twoPow 128 n := by
        rw [BitVec.xor_assoc, BitVec.xor_self, BitVec.xor_zero]
      rw [hjoin, hf, hg, hrest, h ⟨n, hn⟩]
    · refine ih (by omega) w fun i hi => ?_
      rcases Nat.eq_or_lt_of_le hi with rfl | hlt
      · simpa using hbit
      · exact hw i hlt

theorem parity_xor (a b : Block) (taps : List Nat) : parity (a ^^^ b) taps = (parity a taps ^^ parity b taps) := by
  induction taps with
  | nil => rfl
  | cons t taps ih =>
    rw [parity_cons, parity_cons, parity_cons, BitVec.getLsbD_xor, ih, Bool.xor_assoc, Bool.xor_assoc,
      Bool.xor_left_comm (b.getLsbD t)]

theorem xorLinear_tapMap (table : Vector (Vector (List Nat) 16) 8) : XorLinear (tapMap table) := by
  intro a b
  apply BitVec.eq_of_getLsbD_eq
  intro i hi
  have hbit : ∀ v, (tapMap table v).getLsbD i = parity v (entry table ⟨i, hi⟩) := fun v => getLsbD_tapMap table v ⟨i, hi⟩
  rw [BitVec.getLsbD_xor, hbit, hbit, hbit, parity_xor]

theorem xorLinear_permute (table : Vector (Vector Nat 16) 8) : XorLinear (permute table) := by
  intro a b
  apply BitVec.eq_of_getLsbD_eq
  intro i hi
  have hbit : ∀ v, (permute table v).getLsbD i = v.getLsbD (entry table ⟨i, hi⟩) :=
    fun v => getLsbD_permute table v ⟨i, hi⟩
  rw [BitVec.getLsbD_xor, hbit, hbit, hbit, BitVec.getLsbD_xor]

theorem xorLinear_lt : XorLinear lt := xorLinear_tapMap LTT

theorem xorLinear_ltInv : XorLinear ltInv := xorLinear_tapMap LTTINV

theorem xorLinear_ip : XorLinear ip := xorLinear_permute IPT

/-- Settles O49: a map by tap lists is linear, whatever its table. -/
theorem linearTransformIsLinear : Obligations.LinearTransformIsLinear :=
  ⟨getLsbD_tapMap LTT, fun a b => ⟨xorLinear_lt a b, xorLinear_ltInv a b⟩, xorLinear_lt.map_zero, xorLinear_ltInv.map_zero⟩

/-! ### `LT` and `LTinv` undo each other -/

@[simp] theorem lt_ltInv (v : Block) : lt (ltInv v) = v := tapMap_tapMap (by decide +kernel) v

/-- Settles O50: taken through both tables, in either order, the taps of each output bit cancel down to that bit. -/
theorem linearTransformsAreInverse : Obligations.LinearTransformsAreInverse :=
  fun v => ⟨getLsbD_tapMap LTTINV v, ltInv_lt v, lt_ltInv v⟩

/-! ### The word form (R95) -/

/-- R8: four words are read back from the block they make. -/
@[simp] theorem wordsOf_words4 (x : FourWords) : wordsOf (words4 x) = x := by
  obtain ⟨x0, x1, x2, x3⟩ := x
  simp only [wordsOf, Prod.mk.injEq]
  refine ⟨?_, ?_, ?_, ?_⟩
  all_goals
    apply BitVec.eq_of_getLsbD_eq
    intro i hi
    simp only [words4, BitVec.getLsbD_append, getLsbD_word]
    grind

theorem wordsOf_xor (a b : Block) : wordsOf (a ^^^ b) = xorWords (wordsOf a) (wordsOf b) := by
  simp only [wordsOf, word, BitVec.extractLsb'_xor, xorWords]

theorem words4_xorWords (x y : FourWords) : words4 (xorWords x y) = words4 x ^^^ words4 y := by
  rw [← words4_wordsOf (words4 x ^^^ words4 y), wordsOf_xor, wordsOf_words4, wordsOf_words4]

theorem ltw_xorWords (x y : FourWords) : ltw (xorWords x y) = xorWords (ltw x) (ltw y) := by
  simp only [ltw, xorWords, rotl32_xor, BitVec.shiftLeft_xor_distrib, Prod.mk.injEq]
  refine ⟨?_, ?_, ?_, ?_⟩ <;> ac_rfl

/-- R95: `LTWinv` undoes the steps of `LTW` one by one, from the last to the first. -/
@[simp] theorem ltwInv_ltw (x : FourWords) : ltwInv (ltw x) = x := by
  simp [ltw, ltwInv, BitVec.xor_assoc]

/-- `LTW` on the four words of a block. -/
def ltwBlock (v : Block) : Block := words4 (ltw (wordsOf v))

theorem xorLinear_ltwBlock : XorLinear ltwBlock := by
  intro a b
  rw [ltwBlock, wordsOf_xor, ltw_xorWords, words4_xorWords, ltwBlock, ltwBlock]

/-- Both sides are linear, so the 128 blocks with one bit set are all there are to compare. -/
theorem lt_ip (v : Block) : lt (ip v) = ip (ltwBlock v) :=
  (xorLinear_lt.comp xorLinear_ip).eq_of_single_bits (xorLinear_ip.comp xorLinear_ltwBlock) (by decide +kernel) v

/-- R95 seen from four words: carried through `IP`, `LTW` is `LT`. -/
theorem lt_ip_words4 (x : FourWords) : lt (ip (words4 x)) = ip (words4 (ltw x)) := by
  rw [lt_ip, ltwBlock, wordsOf_words4]

theorem lt_eq_ltw (v : Block) : lt v = ip (words4 (ltw (wordsOf (fp v)))) := by
  rw [← lt_ip_words4, words4_wordsOf, ip_fp]

/-- `v` is `LT(LTinv(v))`, which in word form is `LTW` of the words that `LTWinv` finds again. -/
theorem ltInv_eq_ltwInv (v : Block) : ltInv v = ip (words4 (ltwInv (wordsOf (fp v)))) := by
  have hfp : fp v = words4 (ltw (wordsOf (fp (ltInv v)))) := by
    rw [← fp_ip (words4 _), ← lt_eq_ltw, lt_ltInv]
  rw [hfp, wordsOf_words4, ltwInv_ltw, words4_wordsOf, ip_fp]

/-- Settles O51: the forms of `LT` are linear and agree on single bits, and both forms of the inverse undo them. -/
theorem linearTransformWordForm : Obligations.LinearTransformWordForm :=
  fun v => ⟨lt_eq_ltw v, ltInv_eq_ltwInv v⟩

end Sys2Proof.Machine
end

section
/-! SUPPORT. The prekey words as one sequence, the boxes of the round keys, and what `LDKEY` writes and leaves alone
(spec 41_key_schedule.md R110 to R114). -/

namespace Sys2Proof.Machine

/-! ### The prekey words -/

theorem paddedPrekey_of_lt (key : Key) {n : Nat} (h : n < 8) : paddedPrekey key n = word key n := if_pos h

theorem paddedPrekey_add_eight (key : Key) (i : Nat) : paddedPrekey key (i + 8) = prekey key i := by
  rw [paddedPrekey, if_neg (by omega), Nat.add_sub_cancel]

/-- The eight words of the sequence from position `n` on. -/
def paddedWindow (key : Key) (n : Nat) : PrekeyWindow :=
  ⟨paddedPrekey key n, paddedPrekey key (n + 1), paddedPrekey key (n + 2), paddedPrekey key (n + 3),
    paddedPrekey key (n + 4), paddedPrekey key (n + 5), paddedPrekey key (n + 6), paddedPrekey key (n + 7)⟩

/-- R112: the sequence begins with the words of the key. -/
theorem paddedWindow_zero (key : Key) : paddedWindow key 0 = initialWindow key := rfl

theorem push_paddedWindow (key : Key) (n : Nat) :
    (paddedWindow key n).push (paddedPrekey key (n + 8)) = paddedWindow key (n + 1) := rfl

/-- The words that `w[i]` is made of are the eight of the sequence before it. -/
theorem window_eq_paddedWindow (key : Key) (i : Nat) : window key i = paddedWindow key i := by
  induction i with
  | zero => rw [window_zero, paddedWindow_zero]
  | succ i ih => rw [window_succ, ih, ← paddedPrekey_add_eight, push_paddedWindow]

/-- R113, for every `i`. -/
theorem paddedPrekey_recurrence (key : Key) (i : Nat) :
    paddedPrekey key (i + 8) = nextPrekey i (paddedWindow key i) := by
  rw [paddedPrekey_add_eight, prekey, window_eq_paddedWindow]

/-- Settles O53: the key gives the words before position 8, and the window at `i` is the sequence from position `i` on. -/
theorem prekeyRecurrence : Obligations.PrekeyRecurrence :=
  fun key => ⟨fun _ hj => paddedPrekey_of_lt key hj, fun i _ => paddedPrekey_recurrence key i⟩

/-! ### The boxes -/

/-- Settles O54: the formula is the definition, and the sequence is its value at each of the 33 round keys. -/
theorem keyBoxSequence : Obligations.KeyBoxSequence := ⟨fun _ _ => rfl, by decide⟩

/-! ### `LDKEY` -/

/-- Settles O12: the length in the name is the legal one, so the key schedule is loaded and the response is `OK`. -/
theorem ldkeyLoadsKeySchedule : Obligations.LdkeyLoadsKeySchedule :=
  fun din _ hf => ldkeyCommand_of_keyLen (o := ⟨Config.keyLen, din⟩) hf rfl

/-- Settles O20: with the legal length a key load is rejected or done. -/
theorem ldkeyFrame : Obligations.LdkeyFrame := by
  intro din s t h
  rw [exec_ldkey] at h
  by_cases hf : s.fault = .noFault
  · rw [ldkeyCommand_of_keyLen hf rfl] at h
    cases h
    exact ⟨rfl, rfl, rfl, rfl, fun hs => absurd hf hs, _, rfl⟩
  · rw [ldkeyCommand, unlessFaulted_of_fault hf] at h
    cases h
    exact ⟨rfl, rfl, rfl, rfl, fun _ => ⟨rfl, rfl⟩, _, rfl⟩

end Sys2Proof.Machine
end

section
/-! SUPPORT. Encryption after decryption (spec 40_tables_and_primitives.md R87, 43_decrypt.md R155), and what `ENC` and `DEC` do on
the core and leave alone (42_encrypt.md R130, 43_decrypt.md R150). -/

namespace Sys2Proof.Machine

/-! ### Encryption undoes decryption -/

@[simp] theorem shat_shatInv (b : Nat) (v : Block) : shat b (shatInv b v) = v := by
  apply eq_of_nib
  intro j hj
  rw [shat, nib_ofNibbles _ (by omega), shatInv, nib_ofNibbles _ (by omega), sbox_sboxInv]

@[simp] theorem encRound_decRound (ks : RoundKeys) (r : Nat) (b : Block) : encRound ks r (decRound ks r b) = b := by
  simp [decRound, encRound]

@[simp] theorem lastRound_undoLastRound (ks : RoundKeys) (b : Block) : lastRound ks (undoLastRound ks b) = b := by
  simp [undoLastRound, lastRound]

/-- The rounds of the block that undoing `n` rounds leads back to: each is the inverse of the last one undone. -/
theorem bhat_undoRounds (ks : RoundKeys) (n : Nat) (b : Block) : bhat ks (fp (undoRounds ks n b)) n = b := by
  induction n generalizing b with
  | zero => exact ip_fp b
  | succ n ih => rw [undoRounds_succ, bhat_succ, ih, encRound_decRound]

/-- R155 the other way round, for any 33 round keys whatever. -/
@[simp] theorem encryptBlock_decryptBlock (ks : RoundKeys) (c : Block) : encryptBlock ks (decryptBlock ks c) = c := by
  rw [encryptBlock, decryptBlock, bhat_undoRounds, lastRound_undoLastRound, fp_ip]

/-! ### The two commands -/

/-- R44: a block put on the lanes is read back from them. -/
@[simp] theorem blockOperand_setWidth (c : Block) : blockOperand (c.setWidth 256) = c := by
  rw [blockOperand, ← BitVec.setWidth_eq_extractLsb' (by decide), BitVec.setWidth_setWidth_of_le _ (by decide),
    BitVec.setWidth_eq]

/-- R130, R150: where a key is loaded and the length is the legal one, the result is stored and answered. -/
theorem cipherCommand_of_blockLen (cipher : RoundKeys → Block → Block) (din : Lanes) {s : State} {ks : RoundKeys}
    (hf : s.fault = .noFault) (hv : s.keyValid = true) (hr : s.rk = some ks) :
    cipherCommand cipher ⟨Config.blockLen, din⟩ s =
      .next (respond .noFault (some (cipher ks (blockOperand din))) (storeResult (cipher ks (blockOperand din)) s)) := by
  rw [cipherCommand_of_loaded cipher _ hf hv hr, if_pos rfl]

/-- Where one function undoes another, so do their commands: the second finds the fault code, `KEY_VALID` and the round keys as the
first found them. -/
theorem cipherCommand_undoes {first second : RoundKeys → Block → Block} (hinv : ∀ ks v, second ks (first ks v) = v)
    (din : Lanes) {s : State} {ks : RoundKeys} (hf : s.fault = .noFault) (hv : s.keyValid = true) (hr : s.rk = some ks) :
    ∃ u t c, cipherCommand first ⟨Config.blockLen, din⟩ s = .next u ∧ u.dout = some c ∧
      cipherCommand second ⟨Config.blockLen, c.setWidth 256⟩ u = .next t ∧ t.dout = some (blockOperand din) := by
  refine ⟨_, _, _, cipherCommand_of_blockLen first din hf hv hr, rfl, cipherCommand_of_blockLen second _ hf hv hr, ?_⟩
  rw [respond_dout, storeResult_dout, blockOperand_setWidth, hinv]

/-- Settles O31: the two functions undo each other for any round keys, so the two commands do. -/
theorem cipherCommandsUndoEachOther : Obligations.CipherCommandsUndoEachOther :=
  fun din _ _ hf hv hr =>
    ⟨cipherCommand_undoes decryptBlock_encryptBlock din hf hv hr, cipherCommand_undoes encryptBlock_decryptBlock din hf hv hr⟩

/-- Settles O13: the length in the name is the legal one, and the key is loaded. -/
theorem encStoresEncryptedBlock : Obligations.EncStoresEncryptedBlock :=
  fun din _ _ hf hv hr => cipherCommand_of_blockLen encryptBlock din hf hv hr

/-- `ENC` and `DEC` differ in the function of their direction only. -/
theorem exec_cipher {din : Lanes} {i : Instr} (hi : i = .enc din ∨ i = .dec din) (s : State) :
    ∃ cipher, exec i s = cipherCommand cipher ⟨Config.blockLen, din⟩ s := by
  rcases hi with rfl | rfl
  · exact ⟨_, exec_enc din s⟩
  · exact ⟨_, exec_dec din s⟩

/-- Settles O21: with the legal length a cipher command that has a next state is rejected, finds no key or is done, each a whole
change of the state. -/
theorem cipherFrame : Obligations.CipherFrame := by
  intro din i s t hi h
  obtain ⟨cipher, hexec⟩ := exec_cipher hi s
  rw [hexec] at h
  rcases cipherCommand_cases cipher ⟨Config.blockLen, din⟩ s with
    ⟨hf, hx⟩ | ⟨_, hl, hx⟩ | ⟨hf, _, hv, hx⟩ | ⟨_, hf, _, hv, _, hx⟩ | ⟨_, _, _, _, hx⟩ <;> rw [hx] at h <;> cases h
  · exact ⟨rfl, rfl, rfl, fun _ => rfl, fun _ => ⟨rfl, rfl⟩, _, rfl⟩
  · exact absurd rfl hl
  · have hopen : ¬ (s.fault ≠ .noFault ∨ s.keyValid = true) := by simp [hf, hv]
    exact ⟨rfl, rfl, rfl, fun hs => absurd hs hopen, fun _ => ⟨rfl, rfl⟩, _, rfl⟩
  · have hopen : ¬ (s.fault ≠ .noFault ∨ s.keyValid = false) := by simp [hf, hv]
    exact ⟨rfl, rfl, rfl, fun _ => rfl, fun hs => absurd hs hopen, _, rfl⟩

end Sys2Proof.Machine
end

section
/-! SUPPORT. What `DEC` does to the state (spec 43_decrypt.md R150). -/

namespace Sys2Proof.Machine

/-- Settles O14: `DEC` is a cipher command of the legal length, here with the key loaded, and its block is `DIN[127:0]`. -/
theorem decStoresDecryptedBlock : Obligations.DecStoresDecryptedBlock :=
  fun din s _ hf hv hr => (exec_dec din s).trans (cipherCommand_of_blockLen decryptBlock din hf hv hr)

end Sys2Proof.Machine
end

section
/-! SUPPORT. Faults (spec 60_exceptions.md): what raises one and what it leaves alone (R171 to R175), what the faulted state answers
and how long it lasts (R176, R177), and what `FAULT` says of the responses (R178). -/

namespace Sys2Proof.Machine

/-! ### `FAULT` and the responses -/

/-- R178: `FAULT = 0` says the same as: every response was `OK`. -/
def FaultTellsResponses (s : State) : Prop := goodEnd s ↔ ∀ r ∈ s.responses, r.rstat = .noFault

/-- R176: no command changes the stored code. -/
theorem CommandEffect.keeps_fault {c : Command} {s t : State} (he : CommandEffect c s t) (hf : s.fault ≠ .noFault) :
    t.fault = s.fault := by
  cases he with
  | rejected _ => rfl
  | faulted _ hs _ => exact absurd hs hf
  | loaded _ _ _ => rfl
  | stored _ _ _ _ _ => rfl

/-- R66: each command gets one response, and its code is the one `FAULT` holds afterwards. -/
theorem CommandEffect.answers_fault {c : Command} {s t : State} (he : CommandEffect c s t) :
    ∃ data, t.responses = s.responses ++ [⟨t.fault, data⟩] := by
  cases he with
  | rejected _ => exact ⟨none, rfl⟩
  | faulted _ _ _ => exact ⟨none, rfl⟩
  | loaded hf _ _ => exact ⟨none, by simp [hf]⟩
  | stored d hf _ _ _ => exact ⟨some d, by simp [hf]⟩

theorem CommandEffect.port_eq {c : Command} {s t : State} (he : CommandEffect c s t) : t.port = s.port := by
  cases he <;> rfl

/-- A command that leaves `FAULT = 0` found `FAULT = 0`, so the responses before its own were `OK`; its own has the code of
`FAULT`. -/
theorem CommandEffect.keeps_faultTellsResponses {c : Command} {s t : State} (he : CommandEffect c s t)
    (hs : FaultTellsResponses s) : FaultTellsResponses t := by
  obtain ⟨data, hresp⟩ := he.answers_fault
  have hbefore : goodEnd t → goodEnd s := fun ht => by
    by_contra hf
    exact hf ((he.keeps_fault hf).symm.trans ht)
  rw [FaultTellsResponses, hresp, List.forall_mem_append, List.forall_mem_singleton]
  exact ⟨fun ht => ⟨hs.mp (hbefore ht), ht⟩, And.right⟩

/-- Settles O60: the step of a command is one of the effects, and each of them keeps it. -/
theorem noFaultIffResponsesOkKept : Obligations.NoFaultIffResponsesOkKept := by
  intro s t c rest hp hs h
  rw [step_of_command hp] at h
  exact (exec_decode_next h).keeps_faultTellsResponses hs

/-- No reset waits at the port. -/
def OnlyCommandsWait (s : State) : Prop := ∀ e ∈ s.port, ∃ c, e = .command c

/-- Where no reset waits, a step leaves none waiting and keeps what `FAULT` says of the responses. -/
theorem step_keeps_onlyCommandsWait_and_faultTellsResponses {s t : State} (hs : OnlyCommandsWait s ∧ FaultTellsResponses s)
    (h : step s = .next t) : OnlyCommandsWait t ∧ FaultTellsResponses t := by
  obtain ⟨hcmds, htells⟩ := hs
  have hhead {e : Event} {rest : List Event} (hp : s.port = e :: rest) : ∃ c, e = .command c :=
    hcmds e (hp ▸ List.mem_cons_self)
  cases step_next h with
  | idle _ => exact ⟨hcmds, htells⟩
  | reset rest hp => exact nomatch hhead hp
  | resetOver c rest hp => exact nomatch hhead hp
  | command c rest _ hp he =>
    refine ⟨fun e he' => hcmds e ?_, noFaultIffResponsesOkKept s t c rest hp htells h⟩
    rw [he.port_eq] at he'
    exact hp ▸ List.mem_cons_of_mem _ he'

/-- Settles O30: with no fault and no response it holds at the start, and every step keeps it. -/
theorem goodEndMeansEveryResponseOk : Obligations.GoodEndMeansEveryResponseOk := by
  intro s t hf hr hcmds h
  have hstart : FaultTellsResponses s := by simp [FaultTellsResponses, goodEnd, hf, hr]
  exact (run_keeps (fun _ _ => step_keeps_onlyCommandsWait_and_faultTellsResponses) _ s t ⟨hcmds, hstart⟩ h).2

/-! ### The faulted state -/

theorem ldkeyCommand_of_fault (o : Operand) {s : State} (hf : s.fault ≠ .noFault) :
    ldkeyCommand o s = .next (respond s.fault none s) := unlessFaulted_of_fault hf

theorem cipherCommand_of_fault (cipher : RoundKeys → Block → Block) (o : Operand) {s : State} (hf : s.fault ≠ .noFault) :
    cipherCommand cipher o s = .next (respond s.fault none s) := unlessFaulted_of_fault hf

theorem reservedCommand_of_fault {s : State} (hf : s.fault ≠ .noFault) :
    reservedCommand s = .next (respond s.fault none s) := unlessFaulted_of_fault hf

/-- Settles O6: each instruction of the command port is rejected once, a pseudo-operation twice. -/
theorem faultedCoreRejectsEverything : Obligations.FaultedCoreRejectsEverything := by
  intro i s hf
  cases i with
  | ldkey din => exact ldkeyCommand_of_fault ⟨_, din⟩ hf
  | enc din => exact cipherCommand_of_fault encryptBlock ⟨_, din⟩ hf
  | dec din => exact cipherCommand_of_fault decryptBlock ⟨_, din⟩ hf
  | ldkeyBadlen o => exact ldkeyCommand_of_fault o hf
  | encBadlen o => exact cipherCommand_of_fault encryptBlock o hf
  | decBadlen o => exact cipherCommand_of_fault decryptBlock o hf
  | reserved _ => exact reservedCommand_of_fault hf
  | encrypt block key => exact loadThenCipher_of_fault encryptBlock block key hf
  | decrypt block key => exact loadThenCipher_of_fault decryptBlock block key hf

/-- Settles O9: an idle step and a command leave the stored code, so the step was a reset. -/
theorem onlyResetLeavesFaultedState : Obligations.OnlyResetLeavesFaultedState := by
  intro s t h hf hne
  cases step_next h with
  | idle _ => exact absurd rfl hne
  | reset rest hp => exact .inl ⟨rest, hp⟩
  | resetOver c rest hp => exact .inr ⟨c, rest, hp⟩
  | command _ _ _ _ he => exact absurd (he.keeps_fault hf) hne

/-! ### Taking a fault -/

/-- Settles O7: from a state without a fault, a command that leaves one is neither rejected nor completed. -/
theorem faultEntryIsPrecise : Obligations.FaultEntryIsPrecise := by
  intro c s t hf h ht
  cases exec_decode_next h with
  | rejected hs => exact absurd hf hs
  | faulted _ _ _ => rfl
  | loaded _ _ _ => exact absurd hf ht
  | stored _ _ _ _ _ => exact absurd hf ht

/-- R171 to R173: from a state without a fault, the code a command leaves is the one whose cause it meets. -/
theorem fault_eq_iff_faultCause {c : Command} {s t : State} {code : FaultCode} (hf : s.fault = .noFault)
    (h : exec (decode c) s = .next t) (hcode : code ≠ .noFault) : t.fault = code ↔ FaultCause c s code := by
  constructor
  · rintro rfl
    cases exec_decode_next h with
    | rejected hs => exact absurd hf hs
    | faulted _ _ hcause => exact hcause
    | loaded _ _ _ => exact absurd hf hcode
    | stored _ _ _ _ _ => exact absurd hf hcode
  · intro hcause
    rw [exec_decode_of_faultCause hf hcause] at h
    cases h
    rfl

/-- Settles O8: the round keys are there, so there is a next state, and its code is the one whose cause the command meets. -/
theorem faultCausesAreExact : Obligations.FaultCausesAreExact := by
  intro c s hf hk
  obtain ⟨t, h, _⟩ := exec_decode_effect c s fun hv => Option.isSome_iff_ne_none.mp (hk hv)
  exact ⟨t, h, fault_eq_iff_faultCause hf h (by decide), fault_eq_iff_faultCause hf h (by decide),
    fault_eq_iff_faultCause hf h (by decide)⟩

/-- Settles O10: the length in the name is the legal one, so the missing key is what is found. -/
theorem cipherWithoutKeyTraps : Obligations.CipherWithoutKeyTraps := by
  rintro din s _ hf hv rfl
  exact ⟨cipherCommand_of_no_key encryptBlock hf rfl hv, cipherCommand_of_no_key decryptBlock hf rfl hv⟩

/-- Settles O15: the length is checked before anything else but `FAULT`. -/
theorem wrongLengthFormsFault : Obligations.WrongLengthFormsFault := by
  rintro o s _ hf rfl
  exact ⟨ldkeyCommand_of_keyLen_ne hf, cipherCommand_of_blockLen_ne encryptBlock hf,
    cipherCommand_of_blockLen_ne decryptBlock hf⟩

/-- Settles O16: a reserved word has no other meaning. -/
theorem reservedWordsAreIllegal : Obligations.ReservedWordsAreIllegal := fun _ _ hf => reservedCommand_of_noFault hf

/-- R171, R173, R175: a wrong-length form or a reserved word takes a fault and does nothing else. -/
theorem exec_faultingForm {o : Operand} {i : Instr} {s : State}
    (hi : i = .ldkeyBadlen o ∨ i = .encBadlen o ∨ i = .decBadlen o ∨ i = .reserved o) (hw : i.wellFormed = true)
    (hf : s.fault = .noFault) :
    ∃ code, exec i s = .next { s with fault := code, responses := s.responses ++ [⟨code, none⟩] } := by
  obtain ⟨hldkey, henc, hdec⟩ := wrongLengthFormsFault o s _ hf rfl
  rcases hi with rfl | rfl | rfl | rfl
  · exact ⟨_, hldkey (bne_iff_ne.mp hw)⟩
  · exact ⟨_, henc (bne_iff_ne.mp hw)⟩
  · exact ⟨_, hdec (bne_iff_ne.mp hw)⟩
  · exact ⟨_, reservedWordsAreIllegal o s hf⟩

/-- Settles O22: such a form takes its fault or is rejected, and either is a whole change of the state. -/
theorem faultingFormsFrame : Obligations.FaultingFormsFrame := by
  intro o i s t hi hw h
  by_cases hf : s.fault = .noFault
  · obtain ⟨code, hx⟩ := exec_faultingForm hi hw hf
    rw [hx] at h
    cases h
    exact ⟨rfl, rfl, rfl, rfl, rfl, fun hs => absurd hf hs, _, rfl⟩
  · have hone : (encode i).length = 1 := by rcases hi with rfl | rfl | rfl | rfl <;> rfl
    rw [faultedCoreRejectsEverything i s hf, hone] at h
    cases h
    exact ⟨rfl, rfl, rfl, rfl, rfl, fun _ => rfl, _, rfl⟩

end Sys2Proof.Machine
end

section
/-! SUPPORT. Reset, and the run of all waiting events (spec 70_reset_and_hazards.md R200, R201, R215, R216; 30_encoding.md R66). -/

namespace Sys2Proof.Machine

/-- R200: a reset changes every field of the state but the two ports of the host. -/
theorem resetCore_eq (s : State) : resetCore s = { State.reset with port := s.port, responses := s.responses } := rfl

/-- Settles O2: the reset clears every register `STATUS` shows. -/
theorem resetEventGivesResetState : Obligations.ResetEventGivesResetState :=
  fun s rest hp => ⟨_, step_of_reset hp, resetCore_eq { s with port := rest }, status_reset⟩

/-! ### Responses and events -/

/-- R66, R216: from `s` to `t` the events were given the responses they are owed, after those given before. -/
def Answers (events : List Event) (s t : State) : Prop :=
  ∃ rs, t.responses = s.responses ++ rs ∧ rs.length = commandsIn events

/-- Events that are owed no response: it is enough that the responses stay as they were. -/
theorem Answers.of_responses_eq {events : List Event} {s t : State} (hr : t.responses = s.responses)
    (hn : commandsIn events = 0) : Answers events s t :=
  ⟨[], by rw [hr, List.append_nil], hn.symm⟩

theorem commandsIn_cons (e : Event) (rest : List Event) : commandsIn (e :: rest) = commandsIn [e] + commandsIn rest := by
  cases e with
  | command c => exact Nat.add_comm _ _
  | reset => exact (Nat.zero_add _).symm
  | resetOver c => exact (Nat.zero_add _).symm

/-- The responses of the first event stand before those of the rest. -/
theorem Answers.cons {e : Event} {rest : List Event} {s u t : State} (hfirst : Answers [e] s u) (hrest : Answers rest u t) :
    Answers (e :: rest) s t := by
  obtain ⟨rs₁, hu, hlen₁⟩ := hfirst
  obtain ⟨rs₂, ht, hlen₂⟩ := hrest
  exact ⟨rs₁ ++ rs₂, by rw [ht, hu, List.append_assoc], by rw [List.length_append, hlen₁, hlen₂, ← commandsIn_cons]⟩

/-! ### Every event is finished -/

/-- R21: where the invariant holds, the round keys are there when `KEY_VALID` says so. -/
theorem Inv.rk_ne_none {s : State} (hs : Inv s) (hv : s.keyValid = true) : s.rk ≠ none :=
  Option.isSome_iff_ne_none.mp (hs.keyValid_iff_rk ▸ hv)

/-- R215: the step of a waiting event has a next state, which has taken that event and answered it. -/
theorem step_answers {s : State} {e : Event} {rest : List Event} (hs : Inv s) (hp : s.port = e :: rest) :
    ∃ t, step s = .next t ∧ t.port = rest ∧ Answers [e] s t := by
  cases e with
  | reset => exact ⟨_, step_of_reset hp, rfl, .of_responses_eq rfl rfl⟩
  | resetOver c => exact ⟨_, step_of_resetOver hp, rfl, .of_responses_eq rfl rfl⟩
  | command c =>
    obtain ⟨t, hx, he⟩ := exec_decode_effect c { s with port := rest } (hs.after_take rest).rk_ne_none
    obtain ⟨data, hresp⟩ := he.answers_fault
    exact ⟨t, (step_of_command hp).trans hx, he.port_eq, [⟨t.fault, data⟩], hresp, rfl⟩

/-- One step for each waiting event: each step has a next state with the invariant, from which the rest is run. -/
theorem run_answers (events : List Event) : ∀ {s : State}, Inv s → s.port = events →
    ∃ t, Host.Core.run Sys2Proof.core events.length s = .next t ∧ t.port = [] ∧ Answers events s t := by
  induction events with
  | nil => exact fun {s} _ hp => ⟨s, run_zero s, hp, .of_responses_eq rfl rfl⟩
  | cons e rest ih =>
    intro s hs hp
    obtain ⟨u, hu, hup, hfirst⟩ := step_answers hs hp
    obtain ⟨t, ht, htp, hrest⟩ := ih (invariantKeptByEveryStep s u hs hu) hup
    exact ⟨t, (core_run_of_next Sys2Proof.core rest.length hu).trans ht, htp, hfirst.cons hrest⟩

/-- Settles O29: the events are answered one after the other, and the steps of the run keep the invariant. -/
theorem everyCommandIsAnswered : Obligations.EveryCommandIsAnswered := by
  intro s hs
  obtain ⟨t, hrun, hport, hanswers⟩ := run_answers s.port hs rfl
  exact ⟨t, hrun, hport, run_keeps invariantKeptByEveryStep _ s t hs hrun, hanswers⟩

end Sys2Proof.Machine
end

section
/-! SUPPORT. The S-box layers on the nibbles of a block, and the permutations from both sides
(spec 40_tables_and_primitives.md R84 to R90). -/

namespace Sys2Proof.Machine

/-! ### The S-box layers -/

@[simp] theorem sbox_mod (b : Nat) : sbox (b % 8) = sbox b := by
  funext x
  simp [sbox]

@[simp] theorem sboxInv_mod (b : Nat) : sboxInv (b % 8) = sboxInv b := by
  funext y
  simp [sboxInv]

theorem nib_shat (b : Nat) (v : Block) {j : Nat} (hj : j < 32) : nib (shat b v) j = sbox b (nib v j) :=
  nib_ofNibbles _ hj

theorem nib_shatInv (b : Nat) (v : Block) {j : Nat} (hj : j < 32) : nib (shatInv b v) j = sboxInv b (nib v j) :=
  nib_ofNibbles _ hj

/-- Settles O45: each layer is made of its nibbles, and a box of its index modulo 8. -/
theorem sboxLayersActOnNibbles : Obligations.SboxLayersActOnNibbles := by
  refine fun b v => ⟨fun j hj => ⟨?_, ?_⟩, ?_, ?_⟩
  · rw [nib_shat b v hj, sbox_mod]
  · rw [nib_shatInv b v hj, sboxInv_mod]
  · rw [shat, sbox_mod, shat]
  · rw [shatInv, sboxInv_mod, shatInv]

/-- Settles O46: the boxes undo each other on every nibble. -/
theorem sboxLayersAreInverse : Obligations.SboxLayersAreInverse := fun b v => ⟨shatInv_shat b v, shat_shatInv b v⟩

/-! ### The permutations -/

/-- R90: following `IPT` and then `FPT` leads back, by the formulas of both. -/
theorem entry_FPT_entry_IPT (i : Fin 128) : ∃ h : entry IPT i < 128, entry FPT ⟨entry IPT i, h⟩ = i := by
  have hlt : entry IPT i < 128 := by rw [entry_IPT]; omega
  refine ⟨hlt, ?_⟩
  simp only [entry_FPT, entry_IPT]
  omega

/-- R90 the other way round. -/
theorem entry_IPT_entry_FPT (i : Fin 128) : ∃ h : entry FPT i < 128, entry IPT ⟨entry FPT i, h⟩ = i := by
  have hlt : entry FPT i < 128 := by rw [entry_FPT]; omega
  refine ⟨hlt, ?_⟩
  simp only [entry_IPT, entry_FPT]
  omega

theorem xorLinear_fp : XorLinear fp := xorLinear_permute FPT

/-- Settles O48: the tables by their formulas, the functions by their tables, and any permutation of bits is linear. -/
theorem permutationsAreInverse : Obligations.PermutationsAreInverse :=
  ⟨fun i => ⟨entry_FPT_entry_IPT i, entry_IPT_entry_FPT i⟩, fun v => ⟨fp_ip v, ip_fp v⟩,
    fun a b => ⟨xorLinear_ip a b, xorLinear_fp a b⟩⟩

end Sys2Proof.Machine
end

section
/-! SUPPORT. The columns of four words are the nibbles of the permuted block, so that what is done to columns is what the layers do
(spec 40_tables_and_primitives.md R96, 41_key_schedule.md R115 to R117, 43_decrypt.md R156). -/

namespace Sys2Proof.Machine

/-! ### Columns and nibbles -/

theorem column_scol (b : Nat) (x : FourWords) {j : Nat} (hj : j < 32) : column (scol b x) j = sbox b (column x j) :=
  column_ofColumns _ hj

theorem column_scolInv (b : Nat) (x : FourWords) {j : Nat} (hj : j < 32) :
    column (scolInv b x) j = sboxInv b (column x j) :=
  column_ofColumns _ hj

/-- R88: `IP` takes bit `l` of nibble `j` from bit `j` of word `l`. -/
theorem getLsbD_nib_ip (v : Block) {j l : Nat} (hj : j < 32) (hl : l < 4) :
    (nib (ip v) j).getLsbD l = (word v l).getLsbD j := by
  have hpos : 32 * ((4 * j + l) % 4) + (4 * j + l) / 4 = 32 * l + j := by omega
  rw [getLsbD_nib, getLsbD_ip v (by omega), hpos, getLsbD_word]
  simp [hj, hl]

theorem nib_ip (v : Block) {j : Nat} (hj : j < 32) : nib (ip v) j = column (wordsOf v) j := by
  obtain ⟨h0, h1, h2, h3⟩ := getLsbD_column (wordsOf v) j
  apply BitVec.eq_of_getLsbD_eq
  intro l hl
  rw [getLsbD_nib_ip v hj hl]
  have hcases : l = 0 ∨ l = 1 ∨ l = 2 ∨ l = 3 := by omega
  rcases hcases with rfl | rfl | rfl | rfl
  · exact h0.symm
  · exact h1.symm
  · exact h2.symm
  · exact h3.symm

theorem nib_ip_words4 (x : FourWords) {j : Nat} (hj : j < 32) : nib (ip (words4 x)) j = column x j := by
  rw [nib_ip _ hj, wordsOf_words4]

/-- R96: carried through `IP`, `Scol` is the S-box layer. -/
theorem ip_words4_scol (b : Nat) (x : FourWords) : ip (words4 (scol b x)) = shat b (ip (words4 x)) := by
  apply eq_of_nib
  intro j hj
  have hj32 : j < 32 := by omega
  rw [nib_ip_words4 _ hj32, column_scol b x hj32, nib_shat b _ hj32, nib_ip_words4 x hj32]

/-- R156: carried through `IP`, `Scolinv` is the inverse S-box layer. -/
theorem ip_words4_scolInv (b : Nat) (x : FourWords) : ip (words4 (scolInv b x)) = shatInv b (ip (words4 x)) := by
  apply eq_of_nib
  intro j hj
  have hj32 : j < 32 := by omega
  rw [nib_ip_words4 _ hj32, column_scolInv b x hj32, nib_shatInv b _ hj32, nib_ip_words4 x hj32]

/-- Settles O52: `FP` takes both sides back from behind `IP`. -/
theorem columnSboxIsTheLayer : Obligations.ColumnSboxIsTheLayer :=
  fun b x => ⟨fun _ hj => column_scol b x hj, by rw [← ip_words4_scol, fp_ip]⟩

/-! ### Round keys -/

/-- The four prekey words of round key `r` (R115). -/
def prekeyWords (key : Key) (r : Nat) : FourWords :=
  (prekey key (4 * r), prekey key (4 * r + 1), prekey key (4 * r + 2), prekey key (4 * r + 3))

theorem roundKey_eq_ip_words4 (key : Key) (r : Nat) : roundKey key r = ip (words4 (substitutedWords key r)) := rfl

theorem nib_roundKey (key : Key) (r : Nat) {j : Nat} (hj : j < 32) :
    nib (roundKey key r) j = column (substitutedWords key r) j :=
  nib_ip_words4 _ hj

theorem roundKey_eq_shat (key : Key) (r : Nat) :
    roundKey key r = shat (keyBox r) (ip (words4 (prekeyWords key r))) :=
  ip_words4_scol _ _

theorem getElem?_keySchedule (key : Key) {r : Nat} (hr : r < 33) : (keySchedule key)[r]? = some (roundKey key r) := by
  simp [keySchedule, hr]

/-- Settles O55: `IP` makes nibbles of the columns, and so a layer of the boxes on them. -/
theorem roundKeyForms : Obligations.RoundKeyForms :=
  fun key r hr => ⟨roundKey key r, getElem?_keySchedule key hr, rfl, fun _ hj => nib_roundKey key r hj,
    roundKey_eq_shat key r⟩

end Sys2Proof.Machine
end

section
/-! SUPPORT. The key schedule can be run backwards: from the first two round keys to the first eight prekey words, and from those to
the key (spec 41_key_schedule.md R112 to R118). -/

namespace Sys2Proof.Machine

/-! ### From round keys to prekey words -/

/-- A round key determines its four prekey words: the layer and both views of the words can be undone. -/
theorem prekeyWords_eq_of_roundKey_eq {k₁ k₂ : Key} {r : Nat} (h : roundKey k₁ r = roundKey k₂ r) :
    prekeyWords k₁ r = prekeyWords k₂ r := by
  have hback (key : Key) : wordsOf (fp (shatInv (keyBox r) (roundKey key r))) = prekeyWords key r := by
    rw [roundKey_eq_shat, shatInv_shat, fp_ip, wordsOf_words4]
  rw [← hback k₁, h, hback k₂]

/-! ### From prekey words to the key -/

theorem rotl32_injective (n : Nat) : Function.Injective (rotl32 · n) :=
  Function.LeftInverse.injective (g := (rotr32 · n)) fun x => rotr32_rotl32 x n

/-- R113 backwards: the oldest word of a window is one term of the exclusive-or the next word is made of, so the next word and the
other seven determine it. -/
theorem window_eq_of_push_nextPrekey_eq {i : Nat} {p q : PrekeyWindow}
    (h : p.push (nextPrekey i p) = q.push (nextPrekey i q)) : p = q := by
  obtain ⟨p8, p7, p6, p5, p4, p3, p2, p1⟩ := p
  obtain ⟨q8, q7, q6, q5, q4, q3, q2, q1⟩ := q
  obtain ⟨rfl, rfl, rfl, rfl, rfl, rfl, rfl, hnext⟩ := PrekeyWindow.mk.inj h
  have hxor := rotl32_injective 11 hnext
  simp only [BitVec.xor_left_inj] at hxor
  rw [hxor]

theorem initialWindow_injective : Function.Injective initialWindow := by
  intro k₁ k₂ h
  obtain ⟨h0, h1, h2, h3, h4, h5, h6, h7⟩ := PrekeyWindow.mk.inj h
  refine eq_of_chunks 32 (by decide) fun j hj => ?_
  have hj8 : j < 8 := by omega
  interval_cases j
  exacts [h0, h1, h2, h3, h4, h5, h6, h7]

/-- R118: the eight words before any position determine the key, because they determine the eight words one position earlier. -/
theorem window_injective (n : Nat) : Function.Injective (window · n) := by
  induction n with
  | zero => exact initialWindow_injective
  | succ n ih => exact fun _ _ h => ih (window_eq_of_push_nextPrekey_eq h)

/-- The words of round keys 0 and 1 are the first eight computed ones. -/
theorem window_eight_eq_of_prekeyWords_eq {k₁ k₂ : Key} (h₀ : prekeyWords k₁ 0 = prekeyWords k₂ 0)
    (h₁ : prekeyWords k₁ 1 = prekeyWords k₂ 1) : window k₁ 8 = window k₂ 8 := by
  have hwindow (key : Key) : window key 8 =
      ⟨prekey key 0, prekey key 1, prekey key 2, prekey key 3, prekey key 4, prekey key 5, prekey key 6, prekey key 7⟩ := rfl
  simp only [prekeyWords, Prod.mk.injEq] at h₀ h₁
  obtain ⟨w0, w1, w2, w3⟩ := h₀
  obtain ⟨w4, w5, w6, w7⟩ := h₁
  rw [hwindow, hwindow, w0, w1, w2, w3, w4, w5, w6, w7]

/-- Settles O56: two round keys give eight prekey words, and those the key. -/
theorem twoRoundKeysDetermineTheKey : Obligations.TwoRoundKeysDetermineTheKey :=
  fun _ _ h₀ h₁ => window_injective 8
    (window_eight_eq_of_prekeyWords_eq (prekeyWords_eq_of_roundKey_eq h₀) (prekeyWords_eq_of_roundKey_eq h₁))

end Sys2Proof.Machine
end

section
/-! SUPPORT. The cipher as a whole: neither direction is its own inverse, and the word forms follow the standard forms round by round
(spec 42_encrypt.md R136, 43_decrypt.md R155, R156, 90_conflicts.md C3). -/

namespace Sys2Proof.Machine

/-! ### The two directions -/

/-- 33 round keys of zeros. -/
def zeroRoundKeys : RoundKeys := Vector.replicate 33 0

/-- The two directions are different functions: they take the zero block to different blocks under round keys of zeros. -/
theorem encryptBlock_ne_decryptBlock : encryptBlock zeroRoundKeys 0 ≠ decryptBlock zeroRoundKeys 0 := by decide +kernel

/-- Undo one of the two applications: where a function is its own inverse, it agrees with the function that undoes it. -/
theorem eq_of_leftInverse_of_twice {f g : Block → Block} (hgf : Function.LeftInverse g f) {v : Block} (h : f (f v) = v) :
    g v = f v :=
  (congrArg g h).symm.trans (hgf (f v))

theorem encryptBlock_twice_ne : encryptBlock zeroRoundKeys (encryptBlock zeroRoundKeys 0) ≠ 0 := fun h =>
  encryptBlock_ne_decryptBlock (eq_of_leftInverse_of_twice (decryptBlock_encryptBlock zeroRoundKeys) h).symm

theorem decryptBlock_twice_ne : decryptBlock zeroRoundKeys (decryptBlock zeroRoundKeys 0) ≠ 0 := fun h =>
  encryptBlock_ne_decryptBlock (eq_of_leftInverse_of_twice (encryptBlock_decryptBlock zeroRoundKeys) h)

/-- Settles O57: each direction undoes the other for any round keys, and is not its own inverse where the two differ. -/
theorem encryptAndDecryptAreInverse : Obligations.EncryptAndDecryptAreInverse :=
  ⟨fun ks v => ⟨decryptBlock_encryptBlock ks v, encryptBlock_decryptBlock ks v⟩,
    fun key p => decryptBlock_encryptBlock (keySchedule key) p,
    ⟨zeroRoundKeys, 0, encryptBlock_twice_ne⟩, ⟨zeroRoundKeys, 0, decryptBlock_twice_ne⟩⟩

/-! ### The word forms -/

/-- R156 seen from four words: carried through `IP`, `LTWinv` is `LTinv`. -/
theorem ltInv_ip_words4 (x : FourWords) : ltInv (ip (words4 x)) = ip (words4 (ltwInv x)) := by
  rw [ltInv_eq_ltwInv, fp_ip, wordsOf_words4]

/-- R136: carried through `IP`, adding the substituted words is adding the round key. -/
theorem ip_words4_xorWords_substitutedWords (x : FourWords) (key : Key) {r : Nat} (hr : r < 33) :
    ip (words4 (xorWords x (substitutedWords key r))) = ip (words4 x) ^^^ RoundKeys.at (keySchedule key) r := by
  rw [words4_xorWords, xorLinear_ip, at_keySchedule key hr, roundKey_eq_ip_words4]

/-- R136: the words entering each round are the state of the standard form without `IP`. -/
theorem bhat_eq_wordState (key : Key) (v : Block) {r : Nat} (hr : r < 33) :
    bhat (keySchedule key) v r = ip (words4 (wordState key v r)) := by
  induction r with
  | zero => rw [bhat_zero, wordState, words4_wordsOf]
  | succ r ih =>
    rw [bhat_succ, encRound, ih (by omega), ← ip_words4_xorWords_substitutedWords _ key (by omega), ← ip_words4_scol,
      lt_ip_words4, wordState]

theorem encryptBlock_eq_wordEncrypt (key : Key) (v : Block) : encryptBlock (keySchedule key) v = wordEncrypt key v := by
  rw [encryptBlock, lastRound, bhat_eq_wordState key v (by decide), ← ip_words4_xorWords_substitutedWords _ key (by decide),
    ← ip_words4_scol, ← ip_words4_xorWords_substitutedWords _ key (by decide), fp_ip, wordEncrypt]

/-- R156: undoing rounds in word form is undoing them in standard form without `IP`. -/
theorem undoRounds_eq_undoWordRounds (key : Key) {n : Nat} (hn : n ≤ 33) (x : FourWords) :
    undoRounds (keySchedule key) n (ip (words4 x)) = ip (words4 (undoWordRounds key n x)) := by
  induction n generalizing x with
  | zero => rfl
  | succ n ih =>
    rw [undoRounds_succ, decRound, ltInv_ip_words4, ← ip_words4_scolInv,
      ← ip_words4_xorWords_substitutedWords _ key (by omega), ih (by omega), undoWordRounds]

theorem decryptBlock_eq_wordDecrypt (key : Key) (c : Block) : decryptBlock (keySchedule key) c = wordDecrypt key c := by
  have hip : ip c = ip (words4 (wordsOf c)) := by rw [words4_wordsOf]
  rw [decryptBlock, undoLastRound, hip, ← ip_words4_xorWords_substitutedWords _ key (by decide), ← ip_words4_scolInv,
    ← ip_words4_xorWords_substitutedWords _ key (by decide), undoRounds_eq_undoWordRounds key (by decide), fp_ip,
    wordDecrypt]

/-- Settles O58: both forms are the standard forms seen from behind `IP`, step by step. -/
theorem wordFormsOfTheCipher : Obligations.WordFormsOfTheCipher :=
  fun key v => ⟨encryptBlock_eq_wordEncrypt key v, decryptBlock_eq_wordDecrypt key v⟩

end Sys2Proof.Machine
end

section
/-! SUPPORT. The keys and the offsets of the envelope, outside the core (spec 70_reset_and_hazards.md R211). -/

namespace Sys2Proof.Machine

theorem envelopeKey_of_ne_nil {password : List Byte} (h : password ≠ []) (offset : Nat) :
    envelopeKey password offset =
      some ((List.range 32).map fun j => password.getD ((offset + j) % password.length) 0) := if_neg h

/-- R211: each block moves the offset on by `32 mod len`, wrapping at the end of the password. -/
theorem blockOffset_eq (len n : Nat) : blockOffset len n = n * (32 % len) % len := by
  induction n with
  | zero => rw [blockOffset, Nat.zero_mul, Nat.zero_mod]
  | succ n ih => rw [blockOffset, nextOffset, ih, Nat.mod_add_mod, Nat.succ_mul]

/-- `len` divides the sum of the moves, because `gcd(len, move)` divides the move. -/
theorem dvd_div_gcd_mul (len move : Nat) : len ∣ len / Nat.gcd len move * move := by
  rw [Nat.div_mul_right_comm (Nat.gcd_dvd_left len move), Nat.mul_div_assoc _ (Nat.gcd_dvd_right len move)]
  exact Nat.dvd_mul_right _ _

/-- Settles O59: a key has one byte for each lane, and after that many blocks the moves add up to a multiple of the length. -/
theorem envelopeKeysAndOffsets : Obligations.EnvelopeKeysAndOffsets := by
  refine ⟨fun password o h => ⟨_, envelopeKey_of_ne_nil h o, by simp⟩, fun len _ => ?_⟩
  rw [blockOffset_eq, Nat.mod_eq_zero_of_dvd (dvd_div_gcd_mul len _)]

end Sys2Proof.Machine
end

section
/-! SUPPORT. A step that runs no command, and a read of round keys that hold no value (spec 60_exceptions.md R180, R191,
10_state.md R30). -/

namespace Sys2Proof.Machine

/-- Settles O3: the event resets, and the command is dropped with it. -/
theorem resetOverCommandAbandonsIt : Obligations.ResetOverCommandAbandonsIt := by
  intro s c rest hp
  rw [step_of_resetOver hp, resetCore_eq]

/-- Settles O4: with no event the step is idle. -/
theorem idleCoreKeepsItsState : Obligations.IdleCoreKeepsItsState := fun _ hp => step_of_nil hp

/-- R30: past all the checks of a cipher command comes the read of the round keys. -/
theorem cipherCommand_of_rk_none (cipher : RoundKeys → Block → Block) (din : Lanes) {s : State} (hf : s.fault = .noFault)
    (hv : s.keyValid = true) (hr : s.rk = none) : cipherCommand cipher ⟨Config.blockLen, din⟩ s = .fault .noValue := by
  rw [cipherCommand, unlessFaulted_of_noFault hf, if_neg (by simp), if_neg (by simp [hv]), withRoundKeys_none hr]

/-- Settles O11: both commands read the round keys. -/
theorem roundKeysWithoutValueStop : Obligations.RoundKeysWithoutValueStop :=
  fun din _ hf hv hr =>
    ⟨cipherCommand_of_rk_none encryptBlock din hf hv hr, cipherCommand_of_rk_none decryptBlock din hf hv hr⟩

end Sys2Proof.Machine
end
